-- ==== Sys2Proof/Word.lean ====
section
/-! DEFINITION. The widths of the values the spec treats as bits (00_scope.md R7, R9; 30_encoding.md R81). -/

namespace Sys2Proof

/-- A byte of memory, a general register, a timer, the immediate `kk` (R7, R82). -/
abbrev Byte := BitVec 8

/-- A 16-bit word: an opcode, `pc`, `I`, a return address (R7). -/
abbrev Word := BitVec 16

/-- The 12-bit address immediate `nnn` (R82). -/
abbrev Addr := BitVec 12

/-- A 4-bit field of an opcode: the sprite height `n` and the bits a row does not examine (R81). -/
abbrev Nibble := BitVec 4

/-- A 4-bit register field `x` or `y`, which selects one of `V0` to `VF` (R20, R82). -/
abbrev RegIx := BitVec 4

end Sys2Proof
end

