-- ==== Sys2Proof/Config.lean ====
section
/-! DEFINITION. What an implementation of the spec fixes (the open parameters of 00_scope.md R8) and the one free
value (the random byte of 45_random.md R221). The parameters an instruction reads are a record, `Params`, which
`State` carries unchanged through a run (notes/assumptions/2.md); their defaults stand in Machine/Defaults.lean. -/

namespace Sys2Proof.Config

/-- `VF_ORDER` (00_scope.md R14): which write wins when a flag and a result both go to `VF`. -/
inductive VfOrder where
  | flagLast
  | resultLast
  deriving DecidableEq, Repr

/-- `ZERO_FAMILY_MATCH` (30_encoding.md R85): whether `CLS` and `RET` are recognised by the low byte or by the word. -/
inductive ZeroFamilyMatch where
  | lowByte
  | fullWord
  deriving DecidableEq, Repr

/-- `I_OVERFLOW` (44_index_timer_memory.md R191): what `ADD I, Vx` does with a sum above 0xFFFF. -/
inductive IOverflow where
  | fault
  | wrap
  deriving DecidableEq, Repr

/-- `KEY_INDEX_OOR` (47_keys.md R242): what `SKP` and `SKNP` do with a key index above 0xF. -/
inductive KeyIndexOor where
  | fault
  | lowNibble
  deriving DecidableEq, Repr

/-- `FONT_INDEX` (44_index_timer_memory.md R196): the digit `LD F, Vx` takes from a register above 0xF. -/
inductive FontIndex where
  | unmasked
  | lowNibble
  deriving DecidableEq, Repr

/-- The open parameters that an instruction reads (00_scope.md R8). `fontBase` ranges over exactly the addresses with
`FONT_BASE + 79 <= 0x1FF`, that is 0 to 432. -/
structure Params where
  fontBase : Fin 433
  fontIndex : FontIndex
  vfOrder : VfOrder
  zeroMatch : ZeroFamilyMatch
  iOverflow : IOverflow
  keyIndexOor : KeyIndexOor
  deriving DecidableEq, Repr

/-- FREE VALUE (notes/assumptions/3.md): the byte that the `n`-th executed `RND` draws (45_random.md R221, parameter
`RNG`). It has no body: nothing can evaluate it, so what is proved of it holds for every sequence of draws. -/
opaque randomByte : Nat → Byte

end Sys2Proof.Config
end

