-- ==== Sys2Proof/Machine/Defaults.lean ====
section
/-! DEFINITION. The defaults of the spec's open parameters (00_scope.md R8) and the memory contents at construction
(10_state.md R39, R40). -/

namespace Sys2Proof.Machine

open Config

/-- The defaults 00_scope.md R8 gives the parameters that an instruction reads (notes/assumptions/2.md). -/
def defaultParams : Params where
  fontBase := 0
  fontIndex := .unmasked
  vfOrder := .flagLast
  zeroMatch := .lowByte
  iOverflow := .fault
  keyIndexOor := .fault

/-- `ENTRY_PC`, the default initial `pc` (10_state.md R39, 70_reset_and_hazards.md R291). -/
def entryPc : Word := 0x200#16

/-- The default `FONT_DATA`, glyph `d` in the five bytes from `5 * d` (10_state.md R40). -/
def fontData : List Byte :=
  [0xF0#8, 0x90#8, 0x90#8, 0x90#8, 0xF0#8, 0x20#8, 0x60#8, 0x20#8, 0x20#8, 0x70#8] ++
  [0xF0#8, 0x10#8, 0xF0#8, 0x80#8, 0xF0#8, 0xF0#8, 0x10#8, 0xF0#8, 0x10#8, 0xF0#8] ++
  [0x90#8, 0x90#8, 0xF0#8, 0x10#8, 0x10#8, 0xF0#8, 0x80#8, 0xF0#8, 0x10#8, 0xF0#8] ++
  [0xF0#8, 0x80#8, 0xF0#8, 0x90#8, 0xF0#8, 0xF0#8, 0x10#8, 0x20#8, 0x40#8, 0x40#8] ++
  [0xF0#8, 0x90#8, 0xF0#8, 0x90#8, 0xF0#8, 0xF0#8, 0x90#8, 0xF0#8, 0x10#8, 0xF0#8] ++
  [0xF0#8, 0x90#8, 0xF0#8, 0x90#8, 0x90#8, 0xE0#8, 0x90#8, 0xE0#8, 0x90#8, 0xE0#8] ++
  [0xF0#8, 0x80#8, 0x80#8, 0x80#8, 0xF0#8, 0xE0#8, 0x90#8, 0x90#8, 0x90#8, 0xE0#8] ++
  [0xF0#8, 0x80#8, 0xF0#8, 0x80#8, 0xF0#8, 0xF0#8, 0x80#8, 0xF0#8, 0x80#8, 0x80#8]

/-- What an address that memory does not list reads as: the contents at construction with the default parameters and
no program, that is the font from `FONT_BASE` = 0x000 on and 0 elsewhere (10_state.md R39, notes/assumptions/6.md). -/
def unlistedByte (a : Nat) : Byte := fontData.getD a 0#8

end Sys2Proof.Machine
end

