-- ==== Sys2Proof/Syntax.lean ====
section
/-! DEFINITION. The instructions: one constructor per row of the opcode map (30_encoding.md R84, spec/opcode_table.json).
The bits of a word that its row does not examine (`op[11:8]` of `CLS` and `RET`, `op[3:0]` of the register skips, `y` of
the shifts; R85, R86, R95) are arguments too, so that an instruction determines its word: the opcode a fault records
(60_exceptions.md R251) is the word that was fetched. No meaning reads them. -/

namespace Sys2Proof

inductive Instr where
  /-- `SYS addr`, 0nnn (R130). -/
  | sys (nnn : Addr)
  /-- `CLS`, 0xE0 in the low byte; `x` is `op[11:8]`, 0 in the assembler's word (R131, R85). -/
  | cls (x : Nibble)
  /-- `RET`, 0xEE in the low byte; `x` is `op[11:8]`, 0 in the assembler's word (R132, R85). -/
  | ret (x : Nibble)
  /-- `JP addr`, 1nnn (R133). -/
  | jp (nnn : Addr)
  /-- `CALL addr`, 2nnn (R134). -/
  | call (nnn : Addr)
  /-- `SE Vx, byte`, 3xkk (R150). -/
  | seByte (x : RegIx) (kk : Byte)
  /-- `SNE Vx, byte`, 4xkk (R151). -/
  | sneByte (x : RegIx) (kk : Byte)
  /-- `SE Vx, Vy`, 5xyn, `n` not examined (R152, R86). -/
  | seReg (x y : RegIx) (n : Nibble)
  /-- `LD Vx, byte`, 6xkk (R161). -/
  | ldByte (x : RegIx) (kk : Byte)
  /-- `ADD Vx, byte`, 7xkk (R162). -/
  | addByte (x : RegIx) (kk : Byte)
  /-- `LD Vx, Vy`, 8xy0 (R163). -/
  | ldReg (x y : RegIx)
  /-- `OR Vx, Vy`, 8xy1 (R164). -/
  | orReg (x y : RegIx)
  /-- `AND Vx, Vy`, 8xy2 (R165). -/
  | andReg (x y : RegIx)
  /-- `XOR Vx, Vy`, 8xy3 (R166). -/
  | xorReg (x y : RegIx)
  /-- `ADD Vx, Vy`, 8xy4 (R167). -/
  | addReg (x y : RegIx)
  /-- `SUB Vx, Vy`, 8xy5 (R168). -/
  | sub (x y : RegIx)
  /-- `SHR Vx` or `SHR Vx, Vy`, 8xy6, `y` not read (R169). -/
  | shr (x y : RegIx)
  /-- `SUBN Vx, Vy`, 8xy7 (R170). -/
  | subn (x y : RegIx)
  /-- `SHL Vx` or `SHL Vx, Vy`, 8xyE, `y` not read (R171). -/
  | shl (x y : RegIx)
  /-- `SNE Vx, Vy`, 9xyn, `n` not examined (R153, R86). -/
  | sneReg (x y : RegIx) (n : Nibble)
  /-- `LD I, addr`, Annn (R190). -/
  | ldI (nnn : Addr)
  /-- `JP V0, addr`, Bnnn (R135). -/
  | jpV0 (nnn : Addr)
  /-- `RND Vx, byte`, Cxkk (R220). -/
  | rnd (x : RegIx) (kk : Byte)
  /-- `DRW Vx, Vy, nibble`, Dxyn (R225). -/
  | drw (x y : RegIx) (n : Nibble)
  /-- `SKP Vx`, Ex9E (R240). -/
  | skp (x : RegIx)
  /-- `SKNP Vx`, ExA1 (R241). -/
  | sknp (x : RegIx)
  /-- `LD Vx, DT`, Fx07 (R192). -/
  | ldVxDt (x : RegIx)
  /-- `LD Vx, K`, Fx0A (R193). -/
  | ldVxK (x : RegIx)
  /-- `LD DT, Vx`, Fx15 (R194). -/
  | ldDtVx (x : RegIx)
  /-- `LD ST, Vx`, Fx18 (R195). -/
  | ldStVx (x : RegIx)
  /-- `ADD I, Vx`, Fx1E (R191). -/
  | addI (x : RegIx)
  /-- `LD F, Vx`, Fx29 (R196). -/
  | ldF (x : RegIx)
  /-- `LD B, Vx`, Fx33 (R197). -/
  | ldB (x : RegIx)
  /-- `LD [I], Vx`, also spelled `LD I, Vx`, Fx55 (R198, R95). -/
  | ldMemVx (x : RegIx)
  /-- `LD Vx, [I]`, Fx65 (R199). -/
  | ldVxMem (x : RegIx)
  deriving DecidableEq, Repr

/-- The value of `op[15:12]` the opcode map gives the row of an instruction (R83, R84). -/
def Instr.family : Instr → Nibble
  | .sys _ | .cls _ | .ret _ => 0x0
  | .jp _ => 0x1
  | .call _ => 0x2
  | .seByte _ _ => 0x3
  | .sneByte _ _ => 0x4
  | .seReg _ _ _ => 0x5
  | .ldByte _ _ => 0x6
  | .addByte _ _ => 0x7
  | .ldReg _ _ | .orReg _ _ | .andReg _ _ | .xorReg _ _ | .addReg _ _ => 0x8
  | .sub _ _ | .shr _ _ | .subn _ _ | .shl _ _ => 0x8
  | .sneReg _ _ _ => 0x9
  | .ldI _ => 0xA
  | .jpV0 _ => 0xB
  | .rnd _ _ => 0xC
  | .drw _ _ _ => 0xD
  | .skp _ | .sknp _ => 0xE
  | .ldVxDt _ | .ldVxK _ | .ldDtVx _ | .ldStVx _ | .addI _ | .ldF _ | .ldB _ | .ldMemVx _ | .ldVxMem _ => 0xF

end Sys2Proof
end

