-- ==== Sys2Proof/WellFormed.lean ====
section
/-! DEFINITION. Which instructions are the reading of some word (30_encoding.md R84, R85). Every field has the width its
type gives it, so the only checks left are those of family 0, where a wider mask is tried first: `SYS` is what is
left over, and under `full_word` `CLS` and `RET` have one word each. -/

namespace Sys2Proof

open Config

/-- `SYS nnn` is a word that is neither `CLS` nor `RET` (R85). -/
def sysOperandOk (z : ZeroFamilyMatch) (nnn : Addr) : Bool :=
  match z with
  | .lowByte => nnn.setWidth 8 != 0xE0#8 && nnn.setWidth 8 != 0xEE#8
  | .fullWord => nnn != 0x0E0#12 && nnn != 0x0EE#12

/-- The nibble `op[11:8]` that `CLS` and `RET` may have (R85). -/
def zeroNibbleOk (z : ZeroFamilyMatch) (x : Nibble) : Bool :=
  match z with
  | .lowByte => true
  | .fullWord => x == 0#4

/-- The instruction is one that the decoder reads from its own word. -/
def Instr.wellFormed (z : ZeroFamilyMatch) : Instr → Bool
  | .sys nnn => sysOperandOk z nnn
  | .cls x => zeroNibbleOk z x
  | .ret x => zeroNibbleOk z x
  | .jp _ | .call _ | .seByte _ _ | .sneByte _ _ | .seReg _ _ _ | .ldByte _ _ | .addByte _ _ => true
  | .ldReg _ _ | .orReg _ _ | .andReg _ _ | .xorReg _ _ | .addReg _ _ => true
  | .sub _ _ | .shr _ _ | .subn _ _ | .shl _ _ | .sneReg _ _ _ | .ldI _ | .jpV0 _ | .rnd _ _ | .drw _ _ _ => true
  | .skp _ | .sknp _ | .ldVxDt _ | .ldVxK _ | .ldDtVx _ | .ldStVx _ | .addI _ | .ldF _ | .ldB _ => true
  | .ldMemVx _ | .ldVxMem _ => true

end Sys2Proof
end

