-- ==== Sys2Proof/Decode.lean ====
section
/-! DEFINITION. The decoder (30_encoding.md R81 to R90, 40_cycle.md R112), total on 16-bit words and rejecting an
unknown word by name, and the encoder, written from the same opcode map (R84). -/

namespace Sys2Proof

open Config

/-- Why a word is no row of the opcode map (R88). Such a word is a no-op of the cycle (R87), not an error: the step
gives it that effect. -/
inductive Reject where
  /-- Family 8 with `op[3:0]` not 0x0-0x7 or 0xE. -/
  | unknownInFamily8
  /-- Family E with `op[7:0]` not 0x9E or 0xA1. -/
  | unknownInFamilyE
  /-- Family F with `op[7:0]` not one of the nine second keys. -/
  | unknownInFamilyF
  deriving DecidableEq, Repr

/-- `op[15:12]` (R81). -/
def fieldFamily (op : Word) : Nibble := op.extractLsb' 12 4

/-- `x = op[11:8]` (R81). -/
def fieldX (op : Word) : RegIx := op.extractLsb' 8 4

/-- `y = op[7:4]` (R81). -/
def fieldY (op : Word) : RegIx := op.extractLsb' 4 4

/-- `n = op[3:0]` (R81). -/
def fieldN (op : Word) : Nibble := op.extractLsb' 0 4

/-- `kk = op[7:0]` (R81). -/
def fieldKk (op : Word) : Byte := op.extractLsb' 0 8

/-- `nnn = op[11:0]` (R81). -/
def fieldNnn (op : Word) : Addr := op.extractLsb' 0 12

/-- Whether a family-0 word may be `CLS` or `RET` by its `op[11:8]`: any under `low_byte`, only 0 under `full_word`
(R85). -/
def zeroFamilyMatches (z : ZeroFamilyMatch) (op : Word) : Bool :=
  match z with
  | .lowByte => true
  | .fullWord => fieldX op == 0#4

/-- Family 0 (R85): `CLS` and `RET` by the low byte, and under `full_word` only with `op[11:8] = 0`; `SYS` otherwise. -/
def decodeFamily0 (z : ZeroFamilyMatch) (op : Word) : Instr :=
  if zeroFamilyMatches z op then
    if fieldKk op = 0xE0#8 then .cls (fieldX op)
    else if fieldKk op = 0xEE#8 then .ret (fieldX op)
    else .sys (fieldNnn op)
  else .sys (fieldNnn op)

/-- Family 8: the second key is `n` (R83). -/
def decodeFamily8 (op : Word) : Except Reject Instr :=
  match (fieldN op).toNat with
  | 0x0 => .ok (.ldReg (fieldX op) (fieldY op))
  | 0x1 => .ok (.orReg (fieldX op) (fieldY op))
  | 0x2 => .ok (.andReg (fieldX op) (fieldY op))
  | 0x3 => .ok (.xorReg (fieldX op) (fieldY op))
  | 0x4 => .ok (.addReg (fieldX op) (fieldY op))
  | 0x5 => .ok (.sub (fieldX op) (fieldY op))
  | 0x6 => .ok (.shr (fieldX op) (fieldY op))
  | 0x7 => .ok (.subn (fieldX op) (fieldY op))
  | 0xE => .ok (.shl (fieldX op) (fieldY op))
  | _ => .error .unknownInFamily8

/-- Family E: the second key is `kk` (R83). -/
def decodeFamilyE (op : Word) : Except Reject Instr :=
  if fieldKk op = 0x9E#8 then .ok (.skp (fieldX op))
  else if fieldKk op = 0xA1#8 then .ok (.sknp (fieldX op))
  else .error .unknownInFamilyE

/-- Family F: the second key is `kk` (R83). -/
def decodeFamilyF (op : Word) : Except Reject Instr :=
  if fieldKk op = 0x07#8 then .ok (.ldVxDt (fieldX op))
  else if fieldKk op = 0x0A#8 then .ok (.ldVxK (fieldX op))
  else if fieldKk op = 0x15#8 then .ok (.ldDtVx (fieldX op))
  else if fieldKk op = 0x18#8 then .ok (.ldStVx (fieldX op))
  else if fieldKk op = 0x1E#8 then .ok (.addI (fieldX op))
  else if fieldKk op = 0x29#8 then .ok (.ldF (fieldX op))
  else if fieldKk op = 0x33#8 then .ok (.ldB (fieldX op))
  else if fieldKk op = 0x55#8 then .ok (.ldMemVx (fieldX op))
  else if fieldKk op = 0x65#8 then .ok (.ldVxMem (fieldX op))
  else .error .unknownInFamilyF

/-- Decode (R112): the top nibble first, then the second key in families 0, 8, E and F (R83, R84). -/
def decode (z : ZeroFamilyMatch) (op : Word) : Except Reject Instr :=
  match (fieldFamily op).toNat with
  | 0x0 => .ok (decodeFamily0 z op)
  | 0x1 => .ok (.jp (fieldNnn op))
  | 0x2 => .ok (.call (fieldNnn op))
  | 0x3 => .ok (.seByte (fieldX op) (fieldKk op))
  | 0x4 => .ok (.sneByte (fieldX op) (fieldKk op))
  | 0x5 => .ok (.seReg (fieldX op) (fieldY op) (fieldN op))
  | 0x6 => .ok (.ldByte (fieldX op) (fieldKk op))
  | 0x7 => .ok (.addByte (fieldX op) (fieldKk op))
  | 0x8 => decodeFamily8 op
  | 0x9 => .ok (.sneReg (fieldX op) (fieldY op) (fieldN op))
  | 0xA => .ok (.ldI (fieldNnn op))
  | 0xB => .ok (.jpV0 (fieldNnn op))
  | 0xC => .ok (.rnd (fieldX op) (fieldKk op))
  | 0xD => .ok (.drw (fieldX op) (fieldY op) (fieldN op))
  | 0xE => decodeFamilyE op
  | _ => decodeFamilyF op

/-- The opcode of two consecutive bytes, the first in the high half (20_memory.md R52). -/
def wordOfBytes (hi lo : Byte) : Word := hi ++ lo

/-- The byte an opcode has at its own address (R52). -/
def highByte (op : Word) : Byte := op.extractLsb' 8 8

/-- The byte an opcode has at the address after its own (R52). -/
def lowByte (op : Word) : Byte := op.extractLsb' 0 8

/-- What the host's numbering of a table row stands for: the 16 bits `w`, laid out big-endian, read by the decoder
under the default parameters. -/
def decodeTableWord (_nbits w : Nat) : Option Instr :=
  let op := BitVec.ofNat 16 w
  match decode Machine.defaultParams.zeroMatch (wordOfBytes (highByte op) (lowByte op)) with
  | .ok i => some i
  | .error _ => none

/-- A word with an address field: family, `nnn` (R81). -/
def wordNnn (fam : Nibble) (nnn : Addr) : Word := fam ++ nnn

/-- A word with a register and a byte: family, `x`, `kk` (R81). -/
def wordXKk (fam : Nibble) (x : RegIx) (kk : Byte) : Word := fam ++ (x ++ kk)

/-- A word with two registers and a nibble: family, `x`, `y`, `n` (R81). -/
def wordXYN (fam : Nibble) (x y : RegIx) (n : Nibble) : Word := fam ++ (x ++ (y ++ n))

/-- The word of an instruction (the patterns of R84). -/
def encode : Instr → Word
  | .sys nnn => wordNnn 0x0 nnn
  | .cls x => wordXKk 0x0 x 0xE0#8
  | .ret x => wordXKk 0x0 x 0xEE#8
  | .jp nnn => wordNnn 0x1 nnn
  | .call nnn => wordNnn 0x2 nnn
  | .seByte x kk => wordXKk 0x3 x kk
  | .sneByte x kk => wordXKk 0x4 x kk
  | .seReg x y n => wordXYN 0x5 x y n
  | .ldByte x kk => wordXKk 0x6 x kk
  | .addByte x kk => wordXKk 0x7 x kk
  | .ldReg x y => wordXYN 0x8 x y 0x0
  | .orReg x y => wordXYN 0x8 x y 0x1
  | .andReg x y => wordXYN 0x8 x y 0x2
  | .xorReg x y => wordXYN 0x8 x y 0x3
  | .addReg x y => wordXYN 0x8 x y 0x4
  | .sub x y => wordXYN 0x8 x y 0x5
  | .shr x y => wordXYN 0x8 x y 0x6
  | .subn x y => wordXYN 0x8 x y 0x7
  | .shl x y => wordXYN 0x8 x y 0xE
  | .sneReg x y n => wordXYN 0x9 x y n
  | .ldI nnn => wordNnn 0xA nnn
  | .jpV0 nnn => wordNnn 0xB nnn
  | .rnd x kk => wordXKk 0xC x kk
  | .drw x y n => wordXYN 0xD x y n
  | .skp x => wordXKk 0xE x 0x9E#8
  | .sknp x => wordXKk 0xE x 0xA1#8
  | .ldVxDt x => wordXKk 0xF x 0x07#8
  | .ldVxK x => wordXKk 0xF x 0x0A#8
  | .ldDtVx x => wordXKk 0xF x 0x15#8
  | .ldStVx x => wordXKk 0xF x 0x18#8
  | .addI x => wordXKk 0xF x 0x1E#8
  | .ldF x => wordXKk 0xF x 0x29#8
  | .ldB x => wordXKk 0xF x 0x33#8
  | .ldMemVx x => wordXKk 0xF x 0x55#8
  | .ldVxMem x => wordXKk 0xF x 0x65#8

end Sys2Proof
end

