-- ==== Sys2Proof/Machine/State.lean ====
section
/-! DEFINITION. The machine's state as plain data: the Machine State of 10_state.md R35, and beside it three fields of the
model's own (`params`, `draws`, `events`; notes/assumptions/2.md, 3.md, 7.md). -/

namespace Sys2Proof.Machine

open Config

/-- The kind of a memory access that a `MemoryOutOfRange` records (60_exceptions.md R251). -/
inductive AccessKind where
  | fetch
  | read
  | write
  deriving DecidableEq, Repr

/-- A fatal condition with the information it records, `cause` and `info` of `Faulted(cause, info)` (10_state.md R42,
60_exceptions.md R251). `pc` is the address of the instruction and `op` its word. Raising one is a NEXT state whose `mode` holds
it (R252, notes/assumptions/1.md): no step answers `Outcome.fault`. -/
inductive Fault where
  /-- Code 1, raised by the fetch (with no opcode), `DRW`, `LD Vx, [I]`, `LD B, Vx` and `LD [I], Vx` when an address above
  0xFFF would be accessed; `addr` is the lowest such address. Safe: the spec names it and stops there. -/
  | memoryOutOfRange (kind : AccessKind) (addr : Nat) (pc : Word) (op : Option Word)
  /-- Code 2, raised by `CALL` with 16 return addresses pushed. Safe: the spec names it and stops there. -/
  | stackOverflow (pc op : Word)
  /-- Code 3, raised by `RET` with no return address pushed. Safe: the spec names it and stops there. -/
  | stackUnderflow (pc op : Word)
  /-- Code 4, raised by `ADD I, Vx` for a sum above 0xFFFF when `I_OVERFLOW` is `fault`. Safe: the spec's default. -/
  | indexOverflow (pc op i : Word) (vx : Byte)
  /-- Code 5, raised by `SKP` and `SKNP` for `V[x]` above 0xF when `KEY_INDEX_OOR` is `fault`. Safe: the spec's default. -/
  | keyIndexOutOfRange (pc op : Word) (index : Byte)
  deriving DecidableEq, Repr

/-- Why the model has no move. -/
inductive Refusal where
  /-- An arm of `exec` whose instruction has no meaning yet. Safe: nothing is claimed of it. -/
  | notModelled (mnemonic : String)
  /-- `set_key` or `key_press` with an index above 15, which is outside the interface (60_exceptions.md R263, R264; 93 I15).
  Raised by the ports only, never by a step. Safe. -/
  | keyIndexOutsideInterface
  /-- `load` with an image that is not 4096 bytes long, or a boot image made of a font that is not 80 bytes long or of a
  program longer than 0xE00 bytes (10_state.md R37, 70_reset_and_hazards.md R292). Raised by the ports only. Safe. -/
  | imageOutsideInterface
  deriving DecidableEq, Repr

/-- The run state (10_state.md R33). -/
inductive Mode where
  | running
  | waitingForKey (x : RegIx)
  | faulted (f : Fault)
  deriving DecidableEq, Repr

/-- An output event (60_exceptions.md R262). -/
inductive Event where
  | displayChanged
  | displayCleared
  | keyWaitEntered (x : RegIx)
  | keyWaitResolved (x : RegIx) (k : RegIx)
  deriving DecidableEq, Repr

/-- Memory (10_state.md R34): the bytes that differ from the construction contents, as (address, byte) cells. -/
abbrev Memory := List Host.Cell

/-- The display (10_state.md R30): 32 rows of 64 one-bit pixels. -/
abbrev Display := Vector (Vector Bool 64) 32

/-- A display with every pixel 0. -/
def blankDisplay : Display := Vector.replicate 32 (Vector.replicate 64 false)

/-- The machine's state. -/
structure State where
  /-- `V0` to `VF` (R20); `VF` is also the flag register (R21). -/
  v : Vector Byte 16
  /-- The address register `I` (R23). -/
  i : Word
  /-- The program counter (R24). -/
  pc : Word
  /-- The return stack's 16 entries (R26). -/
  stack : Vector Word 16
  /-- The number of return addresses pushed, 0 to 16 (R27). -/
  sp : Fin 17
  /-- The delay timer (R28). -/
  dt : Byte
  /-- The sound timer (R29). -/
  st : Byte
  /-- The bitmap (R30). -/
  display : Display
  /-- The key states, `true` for down (R31). -/
  keys : Vector Bool 16
  /-- The run state (R33), which carries `hold_for_key` (R32) and the recorded fault (R42). -/
  mode : Mode
  /-- Memory (R34). -/
  mem : Memory
  /-- The output event stream, oldest first (R37); no rule reads it. -/
  events : List Event
  /-- THE MODEL'S OWN: how many random bytes have been drawn (notes/assumptions/3.md). -/
  draws : Nat
  /-- THE MODEL'S OWN: the open parameters, which no step changes (notes/assumptions/2.md). -/
  params : Params
  deriving DecidableEq, Repr

/-- The machine right after construction with the default parameters and no program: the values of 10_state.md R39
(the spec's defaults for what its source leaves open, notes/assumptions/4.md), memory listing nothing. -/
def State.reset : State where
  v := Vector.replicate 16 0#8
  i := 0#16
  pc := entryPc
  stack := Vector.replicate 16 0#16
  sp := 0
  dt := 0#8
  st := 0#8
  display := blankDisplay
  keys := Vector.replicate 16 false
  mode := .running
  mem := []
  events := []
  draws := 0
  params := defaultParams

end Sys2Proof.Machine
end

