-- ==== Sys2Proof/Machine/Ops.lean ====
section
/-! DEFINITION. The named operations over memory, registers, the stack, the display and the run state, the one operation
that raises a fault, and the parts of the fetch (00_scope.md R11 to R15, 20_memory.md, 40_cycle.md R111). -/

namespace Sys2Proof.Machine

open Config

/-! ### Memory -/

/-- The byte at an address (20_memory.md R62). -/
def Memory.read : Memory → Nat → Byte
  | [], a => unlistedByte a
  | c :: rest, a => if c.1 = a then c.2 else Memory.read rest a

/-- Memory without a cell for the address. -/
def Memory.erase (m : Memory) (a : Nat) : Memory := m.filter (fun c => c.1 ≠ a)

/-- Memory with a cell put in at its place in the rising order. -/
def Memory.insert : Memory → Nat → Byte → Memory
  | [], a, b => [(a, b)]
  | c :: rest, a, b => if a < c.1 then (a, b) :: c :: rest else c :: Memory.insert rest a b

/-- Memory with the byte `b` at address `a`. Writing what an unlisted address reads as removes the cell. -/
def Memory.write (m : Memory) (a : Nat) (b : Byte) : Memory :=
  if b = unlistedByte a then m.erase a else (m.erase a).insert a b

/-- Bytes written at consecutive rising addresses (20_memory.md R53). -/
def Memory.writeBytes : Memory → Nat → List Byte → Memory
  | m, _, [] => m
  | m, a, b :: bs => Memory.writeBytes (m.write a b) (a + 1) bs

/-- `n` bytes read at consecutive rising addresses (20_memory.md R53). -/
def Memory.readBytes (m : Memory) (a : Nat) : Nat → List Byte
  | 0 => []
  | n + 1 => m.read a :: Memory.readBytes m (a + 1) n

/-- The canonical form: addresses strictly rising, all below 4096, no cell equal to what an unlisted address reads as. -/
abbrev Memory.wf (m : Memory) : Prop :=
  m.Pairwise (fun c d => c.1 < d.1) ∧ ∀ c ∈ m, c.1 < 4096 ∧ c.2 ≠ unlistedByte c.1

/-- Whether an access to `count` bytes from `base` on reaches an address above 0xFFF (20_memory.md R55, R56, R57). -/
def spanOutOfRange (base count : Nat) : Bool := 0 < count && 0x1000 < base + count

/-! ### Registers -/

/-- `V[x]`. -/
def State.getV (s : State) (x : RegIx) : Byte := s.v[x.toNat]'x.isLt

/-- `V[x] <- b`. -/
def State.setV (s : State) (x : RegIx) (b : Byte) : State := { s with v := s.v.set x.toNat b x.isLt }

/-- `I <- w`. -/
def State.setI (s : State) (w : Word) : State := { s with i := w }

/-- `pc <- w`. -/
def State.setPc (s : State) (w : Word) : State := { s with pc := w }

/-- `DT <- b`. -/
def State.setDt (s : State) (b : Byte) : State := { s with dt := b }

/-- `ST <- b`. -/
def State.setSt (s : State) (b : Byte) : State := { s with st := b }

/-- The registers `V0` to `V[x]`, in order (44_index_timer_memory.md R198). -/
def State.regsUpTo (s : State) (x : RegIx) : List Byte := s.v.toList.take (x.toNat + 1)

/-- `V0` to `V[x]` take the bytes at `base`, `base + 1`, ... (44_index_timer_memory.md R199). -/
def State.loadRegs (s : State) (base : Nat) (x : RegIx) : State :=
  { s with v := Vector.ofFn fun j : Fin 16 => if j.val ≤ x.toNat then s.mem.read (base + j.val) else s.v[j] }

/-- Bytes stored from an address on (44_index_timer_memory.md R197, R198). -/
def State.storeBytes (s : State) (base : Nat) (bs : List Byte) : State :=
  { s with mem := s.mem.writeBytes base bs }

/-! ### Program counter, skips, faults and events -/

/-- The fetch's advance of `pc` (40_cycle.md R111). -/
def State.advancePc (s : State) : State := { s with pc := s.pc + 2#16 }

/-- `skip` (00_scope.md R15). -/
def State.skipIf (s : State) (taken : Bool) : State := if taken then { s with pc := s.pc + 2#16 } else s

/-- `A`, the address of the instruction under execution: `pc` already holds `A + 2` (40_cycle.md R113). -/
def State.instrPc (s : State) : Word := s.pc - 2#16

/-- `Emit(event)` (00_scope.md R15): the output stream grows at its end. -/
def State.emit (s : State) (e : Event) : State := { s with events := s.events ++ [e] }

/-- The run state changes (10_state.md R33). -/
def State.setMode (s : State) (m : Mode) : State := { s with mode := m }

/-- `raise` (00_scope.md R13), the entry into a fault (60_exceptions.md R252, R253): the run state becomes `Faulted` with
the cause and its information, and nothing else is written. -/
def raise (f : Fault) (s : State) : Host.Outcome State Fault Refusal := .next (s.setMode (.faulted f))

/-- The lowest address above 0xFFF that an access from `base` on would reach (60_exceptions.md R251). -/
def lowestOutOfRange (base : Nat) : Nat := max base 0x1000

/-- A data access by the instruction whose word is `op` to `count` bytes from `I` on: all the addresses are checked
first, and one out of range raises `MemoryOutOfRange` before anything is written (20_memory.md R57). -/
def checkedAccess (kind : AccessKind) (op : Word) (count : Nat) (s : State)
    (done : State) : Host.Outcome State Fault Refusal :=
  if spanOutOfRange s.i.toNat count then
    raise (.memoryOutOfRange kind (lowestOutOfRange s.i.toNat) s.instrPc (some op)) s
  else .next done

/-! ### Return stack -/

/-- A return address pushed; none with 16 entries in use (41_control.md R134). -/
def State.push (s : State) (w : Word) : Option State :=
  if h : s.sp.val < 16 then
    some { s with stack := s.stack.set s.sp.val w h, sp := ⟨s.sp.val + 1, by omega⟩ }
  else none

/-- The last return address pushed, taken off the stack into `pc`; none on an empty stack (41_control.md R132). -/
def State.popToPc (s : State) : Option State :=
  if h : 0 < s.sp.val then
    some { s with pc := s.stack[s.sp.val - 1]'(by omega), sp := ⟨s.sp.val - 1, by omega⟩ }
  else none

/-! ### Display -/

/-- `display[px, py]` (10_state.md R30). -/
def Display.pixel (d : Display) (px : Fin 64) (py : Fin 32) : Bool := (d[py])[px]

/-- The display with the pixel in column `px` and row `py` inverted. -/
def Display.flip (d : Display) (px : Fin 64) (py : Fin 32) : Display :=
  d.set py.val ((d[py]).set px.val (!d.pixel px py))

/-! ### The cycle's other parts -/

/-- The fault of a fetch at `pc`, if one of its two bytes is out of range (40_cycle.md R111). -/
def fetchFault (s : State) : Option Fault :=
  if 0xFFF < s.pc.toNat + 1 then
    some (.memoryOutOfRange .fetch (lowestOutOfRange s.pc.toNat) s.pc none)
  else none

/-- The opcode at `pc`, big-endian (20_memory.md R52). -/
def fetchWord (s : State) : Word := wordOfBytes (s.mem.read s.pc.toNat) (s.mem.read (s.pc.toNat + 1))

/-- An unknown word is a no-op: the state after the `pc` advance is the next state (30_encoding.md R87). -/
def execUnknown (_r : Reject) (s : State) : Host.Outcome State Fault Refusal := .next s

/-- `step()` while waiting for a key changes nothing (40_cycle.md R114). -/
def stepWaiting (_x : RegIx) (s : State) : Host.Outcome State Fault Refusal := .next s

/-- `step()` after a fault changes nothing (40_cycle.md R115, R118). -/
def stepFaulted (_f : Fault) (s : State) : Host.Outcome State Fault Refusal := .next s

/-- A word put where the next step fetches: its two bytes at `pc`, big-endian, and `Running`, without which nothing is
fetched; at a `pc` that cannot be fetched from, `pc` first becomes the entry point. -/
def State.placeWord (s : State) (op : Word) : State :=
  let a : Word := if 0xFFF < s.pc.toNat + 1 then entryPc else s.pc
  { s with pc := a, mode := .running,
           mem := s.mem.writeBytes a.toNat [highByte op, Sys2Proof.lowByte op] }

end Sys2Proof.Machine
end

