-- ==== Sys2Proof/Machine/Operands.lean ====
section
/-! DEFINITION. The operand forms: how an instruction's fields and registers become addresses, counts, key indices and
digits (30_encoding.md R82, 44_index_timer_memory.md R196, R197, R200, 46_draw.md R225 to R227, 47_keys.md R242). -/

namespace Sys2Proof.Machine

open Config

/-- `zext_16(nnn)` (R82). -/
def zextAddr (nnn : Addr) : Word := nnn.setWidth 16

/-- `zext_16` of a byte. -/
def zextByte (b : Byte) : Word := b.setWidth 16

/-- How many registers, and so bytes, a block form with last register `x` moves (R198, R199). -/
def blockCount (x : RegIx) : Nat := x.toNat + 1

/-- How many sprite rows `DRW` reads (R225). -/
def rowCount (n : Nibble) : Nat := n.toNat

/-- The digit whose glyph `LD F, Vx` names (R196). -/
def fontDigit (p : Params) (vx : Byte) : Nat :=
  match p.fontIndex with
  | .unmasked => vx.toNat
  | .lowNibble => vx.toNat % 16

/-- `FONT_BASE + 5 * d` (R196). -/
def glyphAddress (p : Params) (vx : Byte) : Word := BitVec.ofNat 16 (p.fontBase.val + 5 * fontDigit p vx)

/-- The decimal digits of a byte: hundreds, tens, ones (R197). -/
def bcdDigits (b : Byte) : List Byte :=
  [BitVec.ofNat 8 (b.toNat / 100), BitVec.ofNat 8 (b.toNat / 10 % 10), BitVec.ofNat 8 (b.toNat % 10)]

/-- The key that a register names; none where `KEY_INDEX_OOR = fault` stops the instruction (R242). -/
def keyIndex (p : Params) (vx : Byte) : Option RegIx :=
  if vx.toNat ≤ 15 then some (vx.setWidth 4)
  else match p.keyIndexOor with
    | .fault => none
    | .lowNibble => some (vx.setWidth 4)

/-- `keys[k]` (10_state.md R31). -/
def State.key (s : State) (k : RegIx) : Bool := s.keys[k.toNat]'k.isLt

/-- Column `c` of a sprite row is bit `7 - c` of its byte (R226). -/
def spriteBit (row : Byte) (c : Nat) : Bool := row.getLsbD (7 - c)

/-- The pixel that row `r`, column `c` of a sprite at `(x0, y0)` lands on: both axes wrap (R227). -/
def spriteTarget (x0 y0 : Byte) (r c : Nat) : Fin 64 × Fin 32 :=
  (Fin.ofNat 64 (x0.toNat + c), Fin.ofNat 32 (y0.toNat + r))

/-- The pixels that one sprite row inverts, left to right. -/
def rowTargets (x0 y0 : Byte) (r : Nat) (row : Byte) : List (Fin 64 × Fin 32) :=
  ((List.range 8).filter (spriteBit row)).map (spriteTarget x0 y0 r)

/-- The pixels that the sprite rows inverts, from row `r` on, top to bottom. -/
def spriteTargets (x0 y0 : Byte) : Nat → List Byte → List (Fin 64 × Fin 32)
  | _, [] => []
  | r, row :: rows => rowTargets x0 y0 r row ++ spriteTargets x0 y0 (r + 1) rows

end Sys2Proof.Machine
end

