-- ==== Sys2Proof/Machine/Flags.lean ====
section
/-! DEFINITION. The results and flags of the ALU (43_alu.md R160, R167 to R172), the collision of a draw (46_draw.md R228)
and the one operation that writes a result and a flag (00_scope.md R14). -/

namespace Sys2Proof.Machine

open Config

/-- A Boolean flag is stored as 1 or 0 (R172). -/
def flagByte (b : Bool) : Byte := if b then 1#8 else 0#8

/-- `trunc_8(v + w)` (R160). -/
def sumByte (v w : Byte) : Byte := BitVec.ofNat 8 (v.toNat + w.toNat)

/-- The carry of `ADD Vx, Vy` (R167). -/
def carryFlag (v w : Byte) : Byte := flagByte (0xFF < v.toNat + w.toNat)

/-- `v - w`, saturated at 0 (R168, R170). -/
def differenceByte (v w : Byte) : Byte := if w.toNat < v.toNat then BitVec.ofNat 8 (v.toNat - w.toNat) else 0#8

/-- The strict not-borrow flag of `v - w` (R168, R170). -/
def notBorrowFlag (v w : Byte) : Byte := flagByte (w.toNat < v.toNat)

/-- `v div 2` (R169). -/
def halfByte (v : Byte) : Byte := BitVec.ofNat 8 (v.toNat / 2)

/-- The bit `SHR` shifts out (R169). -/
def lowBitFlag (v : Byte) : Byte := flagByte (v.getLsbD 0)

/-- `trunc_8(v * 2)` (R171). -/
def doubleByte (v : Byte) : Byte := BitVec.ofNat 8 (v.toNat * 2)

/-- The bit `SHL` shifts out (R171). -/
def highBitFlag (v : Byte) : Byte := flagByte (v.getLsbD 7)

/-- `VF` (10_state.md R21). -/
def vfIx : RegIx := 0xF#4

/-- `WriteWithFlag` (00_scope.md R14). The order of the two writes shows only when `x` is `VF`. -/
def State.writeWithFlag (s : State) (x : RegIx) (result flag : Byte) : State :=
  match s.params.vfOrder with
  | .flagLast => (s.setV x result).setV vfIx flag
  | .resultLast => (s.setV vfIx flag).setV x result

/-- One sprite bit set: the pixel is inverted, and a 1 that becomes 0 is a collision (46_draw.md R225). -/
def drawPixel (acc : Display × Bool) (p : Fin 64 × Fin 32) : Display × Bool :=
  (acc.1.flip p.1 p.2, acc.2 || acc.1.pixel p.1 p.2)

/-- The display and the collision after the pixels are inverted one by one (46_draw.md R225, R228). -/
def drawPixels (d : Display) (ps : List (Fin 64 × Fin 32)) : Display × Bool := ps.foldl drawPixel (d, false)

end Sys2Proof.Machine
end

