-- ==== Sys2Proof/Machine/Alu.lean ====
section
/-! DEFINITION. The register loads, arithmetic and bitwise instructions (43_alu.md R161 to R171). -/

namespace Sys2Proof.Machine

/-- `LD Vx, byte` (R161). -/
def execLdByte (x : RegIx) (kk : Byte) (s : State) : Host.Outcome State Fault Refusal := .next (s.setV x kk)

/-- `ADD Vx, byte`, which sets no flag (R162). -/
def execAddByte (x : RegIx) (kk : Byte) (s : State) : Host.Outcome State Fault Refusal :=
  .next (s.setV x (sumByte (s.getV x) kk))

/-- `LD Vx, Vy` (R163). -/
def execLdReg (x y : RegIx) (s : State) : Host.Outcome State Fault Refusal := .next (s.setV x (s.getV y))

/-- `OR Vx, Vy`, which sets no flag (R164). -/
def execOrReg (x y : RegIx) (s : State) : Host.Outcome State Fault Refusal :=
  .next (s.setV x (s.getV x ||| s.getV y))

/-- `AND Vx, Vy`, which sets no flag (R165). -/
def execAndReg (x y : RegIx) (s : State) : Host.Outcome State Fault Refusal :=
  .next (s.setV x (s.getV x &&& s.getV y))

/-- `XOR Vx, Vy`, which sets no flag (R166). -/
def execXorReg (x y : RegIx) (s : State) : Host.Outcome State Fault Refusal :=
  .next (s.setV x (s.getV x ^^^ s.getV y))

/-- `ADD Vx, Vy` with carry (R167). -/
def execAddReg (x y : RegIx) (s : State) : Host.Outcome State Fault Refusal :=
  .next (s.writeWithFlag x (sumByte (s.getV x) (s.getV y)) (carryFlag (s.getV x) (s.getV y)))

/-- `SUB Vx, Vy`, saturating, with the strict not-borrow flag (R168). -/
def execSub (x y : RegIx) (s : State) : Host.Outcome State Fault Refusal :=
  .next (s.writeWithFlag x (differenceByte (s.getV x) (s.getV y)) (notBorrowFlag (s.getV x) (s.getV y)))

/-- `SHR Vx`; `y` is not read (R169). -/
def execShr (x _y : RegIx) (s : State) : Host.Outcome State Fault Refusal :=
  .next (s.writeWithFlag x (halfByte (s.getV x)) (lowBitFlag (s.getV x)))

/-- `SUBN Vx, Vy`, `SUB` with its operands reversed (R170). -/
def execSubn (x y : RegIx) (s : State) : Host.Outcome State Fault Refusal :=
  .next (s.writeWithFlag x (differenceByte (s.getV y) (s.getV x)) (notBorrowFlag (s.getV y) (s.getV x)))

/-- `SHL Vx`; `y` is not read (R171). -/
def execShl (x _y : RegIx) (s : State) : Host.Outcome State Fault Refusal :=
  .next (s.writeWithFlag x (doubleByte (s.getV x)) (highBitFlag (s.getV x)))

end Sys2Proof.Machine
end

