-- ==== Sys2Proof/Machine/Control.lean ====
section
/-! DEFINITION. The control instructions (41_control.md R130 to R135). -/

namespace Sys2Proof.Machine

/-- `SYS addr` is a no-op (R130). -/
def execSys (_nnn : Addr) (s : State) : Host.Outcome State Fault Refusal := .next s

/-- `CLS` clears the bitmap and signals it (R131). -/
def execCls (_x : Nibble) (s : State) : Host.Outcome State Fault Refusal :=
  .next ({ s with display := blankDisplay }.emit .displayCleared)

/-- `RET` (R132). -/
def execRet (x : Nibble) (s : State) : Host.Outcome State Fault Refusal :=
  match s.popToPc with
  | some t => .next t
  | none => raise (.stackUnderflow s.instrPc (encode (.ret x))) s

/-- `JP addr` (R133). -/
def execJp (nnn : Addr) (s : State) : Host.Outcome State Fault Refusal := .next (s.setPc (zextAddr nnn))

/-- `CALL addr` pushes `pc`, which is `A + 2` (R134). -/
def execCall (nnn : Addr) (s : State) : Host.Outcome State Fault Refusal :=
  match s.push s.pc with
  | some t => .next (t.setPc (zextAddr nnn))
  | none => raise (.stackOverflow s.instrPc (encode (.call nnn))) s

/-- `JP V0, addr`, unmasked (R135). -/
def execJpV0 (nnn : Addr) (s : State) : Host.Outcome State Fault Refusal :=
  .next (s.setPc (zextAddr nnn + zextByte (s.getV 0#4)))

end Sys2Proof.Machine
end

