-- ==== Sys2Proof/Machine/Draw.lean ====
section
/-! DEFINITION. The draw instruction (46_draw.md R225 to R230). -/

namespace Sys2Proof.Machine

/-- The pixels `DRW Vx, Vy, n` inverts: the sprite's rows are the `n` bytes from `I` on, and its place is read before
`VF` is written (R225). -/
def State.drawTargets (s : State) (x y : RegIx) (n : Nibble) : List (Fin 64 × Fin 32) :=
  spriteTargets (s.getV x) (s.getV y) 0 (s.mem.readBytes s.i.toNat (rowCount n))

/-- The bitmap drawn on, `VF` set to the collision and `DisplayChanged` signalled (R225, R228, R230). -/
def State.drawAt (s : State) (targets : List (Fin 64 × Fin 32)) : State :=
  ({ s with display := (drawPixels s.display targets).1 }.setV vfIx (flagByte (drawPixels s.display targets).2)).emit
    .displayChanged

/-- `DRW Vx, Vy, nibble` (R225); a sprite row above 0xFFF stops it before any pixel changes (R229). -/
def execDrw (x y : RegIx) (n : Nibble) (s : State) : Host.Outcome State Fault Refusal :=
  checkedAccess .read (encode (.drw x y n)) (rowCount n) s (s.drawAt (s.drawTargets x y n))

end Sys2Proof.Machine
end

