-- ==== Sys2Proof/Machine/Index.lean ====
section
/-! DEFINITION. The index, timer, key-wait, font, BCD and block-transfer instructions
(44_index_timer_memory.md R190 to R199). -/

namespace Sys2Proof.Machine

/-- `LD I, addr` (R190). -/
def execLdI (nnn : Addr) (s : State) : Host.Outcome State Fault Refusal := .next (s.setI (zextAddr nnn))

/-- `ADD I, Vx`: unmasked up to 0xFFFF; above it `I_OVERFLOW` decides (R191). -/
def execAddI (x : RegIx) (s : State) : Host.Outcome State Fault Refusal :=
  if s.i.toNat + (s.getV x).toNat ≤ 0xFFFF then .next (s.setI (s.i + zextByte (s.getV x)))
  else match s.params.iOverflow with
    | .fault => raise (.indexOverflow s.instrPc (encode (.addI x)) s.i (s.getV x)) s
    | .wrap => .next (s.setI (s.i + zextByte (s.getV x)))

/-- `LD Vx, DT` (R192). -/
def execLdVxDt (x : RegIx) (s : State) : Host.Outcome State Fault Refusal := .next (s.setV x s.dt)

/-- `LD Vx, K` enters the key wait and writes no register (R193). -/
def execLdVxK (x : RegIx) (s : State) : Host.Outcome State Fault Refusal :=
  .next ((s.setMode (.waitingForKey x)).emit (.keyWaitEntered x))

/-- `LD DT, Vx` (R194). -/
def execLdDtVx (x : RegIx) (s : State) : Host.Outcome State Fault Refusal := .next (s.setDt (s.getV x))

/-- `LD ST, Vx` (R195). -/
def execLdStVx (x : RegIx) (s : State) : Host.Outcome State Fault Refusal := .next (s.setSt (s.getV x))

/-- `LD F, Vx` (R196). -/
def execLdF (x : RegIx) (s : State) : Host.Outcome State Fault Refusal :=
  .next (s.setI (glyphAddress s.params (s.getV x)))

/-- `LD B, Vx` (R197). -/
def execLdB (x : RegIx) (s : State) : Host.Outcome State Fault Refusal :=
  checkedAccess .write (encode (.ldB x)) 3 s (s.storeBytes s.i.toNat (bcdDigits (s.getV x)))

/-- `LD [I], Vx` (R198). -/
def execLdMemVx (x : RegIx) (s : State) : Host.Outcome State Fault Refusal :=
  checkedAccess .write (encode (.ldMemVx x)) (blockCount x) s (s.storeBytes s.i.toNat (s.regsUpTo x))

/-- `LD Vx, [I]` (R199). -/
def execLdVxMem (x : RegIx) (s : State) : Host.Outcome State Fault Refusal :=
  checkedAccess .read (encode (.ldVxMem x)) (blockCount x) s (s.loadRegs s.i.toNat x)

end Sys2Proof.Machine
end

