-- ==== Sys2Proof/Machine/Keys.lean ====
section
/-! DEFINITION. The key skips (47_keys.md R240 to R242). -/

namespace Sys2Proof.Machine

/-- The skip of `SKP` and `SKNP`, taken when the key that `V[x]` names is `down`; an index with no key raises
`KeyIndexOutOfRange` (R240, R241, R242). -/
def skipOnKey (op : Word) (x : RegIx) (down : Bool) (s : State) : Host.Outcome State Fault Refusal :=
  match keyIndex s.params (s.getV x) with
  | some k => .next (s.skipIf (s.key k == down))
  | none => raise (.keyIndexOutOfRange s.instrPc op (s.getV x)) s

/-- `SKP Vx` (R240). -/
def execSkp (x : RegIx) (s : State) : Host.Outcome State Fault Refusal := skipOnKey (encode (.skp x)) x true s

/-- `SKNP Vx` (R241). -/
def execSknp (x : RegIx) (s : State) : Host.Outcome State Fault Refusal := skipOnKey (encode (.sknp x)) x false s

end Sys2Proof.Machine
end

