-- ==== Sys2Proof/Machine/Random.lean ====
section
/-! DEFINITION. The random number instruction (45_random.md R220, R221). -/

namespace Sys2Proof.Machine

/-- `RandomByte()` (R221): a free value, a fresh one for each draw (notes/assumptions/3.md). -/
def State.randomByte (s : State) : Byte := Config.randomByte s.draws

/-- The next draw is another one. -/
def State.countDraw (s : State) : State := { s with draws := s.draws + 1 }

/-- `RND Vx, byte` (R220). -/
def execRnd (x : RegIx) (kk : Byte) (s : State) : Host.Outcome State Fault Refusal :=
  .next (s.setV x (s.randomByte &&& kk)).countDraw

end Sys2Proof.Machine
end

