-- ==== Sys2Proof/Machine/Step.lean ====
section
/-! DEFINITION. The cycle (40_cycle.md R110, R118). -/

namespace Sys2Proof.Machine

/-- One `step()`: in `Running` fetch, advance, decode and execute, an unknown word being a no-op (R111 to R113,
30_encoding.md R87); while waiting for a key and after a fault, nothing (R114, R115). -/
def step (s : State) : Host.Outcome State Fault Refusal :=
  match s.mode with
  | .faulted f => stepFaulted f s
  | .waitingForKey x => stepWaiting x s
  | .running =>
    match fetchFault s with
    | some f => raise f s
    | none =>
      match decode s.params.zeroMatch (fetchWord s) with
      | .ok i => exec i s.advancePc
      | .error r => execUnknown r s.advancePc

/-- The 16 bits `w` of a table row, put where the next step fetches its instruction. It stands for the host's load of
a program (notes/assumptions/5.md). -/
def State.withFetchWord (s : State) (_nbits w : Nat) : State := s.placeWord (BitVec.ofNat 16 w)

end Sys2Proof.Machine
end

