-- ==== Sys2Proof/Machine/Ports.lean ====
section
/-! DEFINITION. The block's ports (10_state.md R37): the host's actions between steps, the construction of a machine from
an image, and the outputs (60_exceptions.md R252, R259 to R265, 70_reset_and_hazards.md R290, R292). The engine's `step`
never performs a host action; a run is any sequence of actions (70_reset_and_hazards.md R301). -/

namespace Sys2Proof.Machine

open Config

/-- A timer tick, floor 0 (60_exceptions.md R259). -/
def countDown (b : Byte) : Byte := if 0 < b.toNat then b - 1#8 else b

/-- Whether the machine has stopped on a fault (R252). -/
def State.isFaulted (s : State) : Bool :=
  match s.mode with
  | .faulted _ => true
  | .waitingForKey _ => false
  | .running => false

/-- The port `tick`: both timers count down, in `Running` and in a key wait alike; nothing after a fault (R259). -/
def tick (s : State) : State :=
  if s.isFaulted then s else { s with dt := countDown s.dt, st := countDown s.st }

/-- `keys[k] <- pressed`. -/
def State.setKeyState (s : State) (k : RegIx) (pressed : Bool) : State :=
  { s with keys := s.keys.set k.toNat pressed k.isLt }

/-- The port `set_key(k, pressed)`: it never ends a key wait; nothing after a fault; an index above 15 is refused
(R263, R252). -/
def setKey (k : Nat) (pressed : Bool) (s : State) : Host.Outcome State Fault Refusal :=
  if 15 < k then .refused .keyIndexOutsideInterface
  else if s.isFaulted then .next s
  else .next (s.setKeyState (BitVec.ofNat 4 k) pressed)

/-- The end of a key wait by the press of `k` (R264). -/
def resolveWait (k : RegIx) (s : State) : State :=
  match s.mode with
  | .waitingForKey x => (((s.setV x (k.setWidth 8)).setMode .running).emit (.keyWaitResolved x k))
  | .running => s
  | .faulted _ => s

/-- The port `key_press(k)`: the key goes down, and a key wait ends with the key's index in its register; nothing
after a fault; an index above 15 is refused (R264, R252). -/
def keyPress (k : Nat) (s : State) : Host.Outcome State Fault Refusal :=
  if 15 < k then .refused .keyIndexOutsideInterface
  else if s.isFaulted then .next s
  else .next (resolveWait (BitVec.ofNat 4 k) (s.setKeyState (BitVec.ofNat 4 k) true))

/-- One move of the host (R265). -/
inductive Action where
  | step
  | tick
  | setKey (k : Nat) (pressed : Bool)
  | keyPress (k : Nat)
  deriving DecidableEq, Repr

/-- What a move of the host does. -/
def act (a : Action) (s : State) : Host.Outcome State Fault Refusal :=
  match a with
  | .step => Sys2Proof.Machine.step s
  | .tick => .next (Sys2Proof.Machine.tick s)
  | .setKey k pressed => Sys2Proof.Machine.setKey k pressed s
  | .keyPress k => Sys2Proof.Machine.keyPress k s

/-- A run: the host's moves one after the other, in any order it chooses (R270, 70_reset_and_hazards.md R301). -/
def actAll : List Action → State → Host.Outcome State Fault Refusal
  | [], s => .next s
  | a :: rest, s =>
    match act a s with
    | .next t => actAll rest t
    | .fault f => .fault f
    | .refused r => .refused r

/-- The port `load(image, entry)`, available before the first step only: the machine constructed from a memory image, an
initial `pc`, the parameters, and the construction values `init` of registers, timers, display and keys (parameter
`RESET_STATE`); the stack is empty and the engine runs (10_state.md R37, R39, 70_reset_and_hazards.md R290, R291). -/
def load (init : State) (p : Params) (image : List Byte) (entry : Word) : Host.Outcome State Fault Refusal :=
  if image.length = 4096 then
    .next { init with
      mem := Memory.writeBytes [] 0 image, pc := entry, sp := 0, mode := .running, events := [], params := p }
  else .refused .imageOutsideInterface

/-- The image the host boots with: the font at `FONT_BASE`, the program from 0x200 on, 0 elsewhere
(70_reset_and_hazards.md R292, 10_state.md R39). -/
def bootImage (p : Params) (font program : List Byte) : List Byte :=
  List.replicate p.fontBase.val 0#8 ++ font ++ List.replicate (432 - p.fontBase.val) 0#8 ++ program ++
    List.replicate (0xE00 - program.length) 0#8

/-- Boot (70_reset_and_hazards.md R292): a font is 80 bytes, a program at most 0xE00 bytes. -/
def boot (init : State) (p : Params) (font program : List Byte) (entry : Word) : Host.Outcome State Fault Refusal :=
  if font.length = 80 ∧ program.length ≤ 0xE00 then load init p (bootImage p font program) entry
  else .refused .imageOutsideInterface

/-- The output `sound_on` (60_exceptions.md R261). -/
def State.soundOn (s : State) : Bool := 0 < s.st.toNat

/-- The output `fault` (R252). -/
def State.faultOutput (s : State) : Option Fault :=
  match s.mode with
  | .faulted f => some f
  | .waitingForKey _ => none
  | .running => none

/-- The code of a cause (60_exceptions.md R251). -/
def Fault.code : Fault → Nat
  | .memoryOutOfRange _ _ _ _ => 1
  | .stackOverflow _ _ => 2
  | .stackUnderflow _ _ => 3
  | .indexOverflow _ _ _ _ => 4
  | .keyIndexOutOfRange _ _ _ => 5

/-- The stack depth at a stack fault (10_state.md R42), which the cause determines (R27). -/
def Fault.stackDepth : Fault → Option Nat
  | .stackOverflow _ _ => some 16
  | .stackUnderflow _ _ => some 0
  | .memoryOutOfRange _ _ _ _ | .indexOverflow _ _ _ _ | .keyIndexOutOfRange _ _ _ => none

/-- `hold_for_key` (10_state.md R32). -/
def State.holdForKey (s : State) : Option RegIx :=
  match s.mode with
  | .waitingForKey x => some x
  | .running => none
  | .faulted _ => none

/-- The output `display` (10_state.md R30, R37). -/
def State.pixel (s : State) (px : Fin 64) (py : Fin 32) : Bool := s.display.pixel px py

end Sys2Proof.Machine
end

