-- ==== Sys2Proof/Safety.lean ====
section
/-! DEFINITION. The words the statements use: what is the same in two states, what an instruction may change, the
invariant of the machine, the opcode map as a table, and the ends of a run. -/

namespace Sys2Proof.Machine

open Config

/-! ### What is the same in two states -/

/-- The parts of the state. -/
inductive Part where
  | v
  | i
  | pc
  | stack
  | sp
  | dt
  | st
  | display
  | keys
  | mode
  | mem
  | events
  | draws
  | params
  deriving DecidableEq, Repr

/-- Part `p` reads the same in both states: every register, every byte of memory, every pixel, every key. -/
def Same (p : Part) (s t : State) : Prop :=
  match p with
  | .v => ∀ j : RegIx, t.getV j = s.getV j
  | .i => t.i = s.i
  | .pc => t.pc = s.pc
  | .stack => t.stack = s.stack
  | .sp => t.sp = s.sp
  | .dt => t.dt = s.dt
  | .st => t.st = s.st
  | .display => ∀ px py, t.pixel px py = s.pixel px py
  | .keys => ∀ k : RegIx, t.key k = s.key k
  | .mode => t.mode = s.mode
  | .mem => ∀ a, t.mem.read a = s.mem.read a
  | .events => t.events = s.events
  | .draws => t.draws = s.draws
  | .params => t.params = s.params

/-- Every part of the state but those listed is the same. -/
def SameExcept (ps : List Part) (s t : State) : Prop := ∀ p, p ∉ ps → Same p s t

/-- Every register but those listed is the same. -/
def RegsSameExcept (xs : List RegIx) (s t : State) : Prop := ∀ j, j ∉ xs → t.getV j = s.getV j

/-- Every byte of memory outside the `count` bytes from `base` on is the same. -/
def MemSameOutside (base count : Nat) (s t : State) : Prop :=
  ∀ a, a < base ∨ base + count ≤ a → t.mem.read a = s.mem.read a

/-! ### Shapes of a result -/

/-- The instruction completes, writes `r` to `V[x]` and changes nothing else. -/
def WritesRegister (i : Instr) (s : State) (x : RegIx) (r : Byte) : Prop :=
  ∃ t, exec i s = .next t ∧ t.getV x = r ∧ RegsSameExcept [x] s t ∧ SameExcept [.v] s t

/-- The instruction completes, writes a result to `V[x]` and a flag to `VF`, and changes nothing else. Where `V[x]` is
`VF` itself, the parameter `VF_ORDER` says which of the two stays (00_scope.md R14). -/
def WritesResultAndFlag (i : Instr) (s : State) (x : RegIx) (result flag : Nat) : Prop :=
  ∃ t, exec i s = .next t ∧ RegsSameExcept [x, 0xF#4] s t ∧ SameExcept [.v] s t ∧
    (x ≠ 0xF#4 → (t.getV x).toNat = result ∧ (t.getV 0xF#4).toNat = flag) ∧
    (x = 0xF#4 → s.params.vfOrder = .flagLast → (t.getV 0xF#4).toNat = flag) ∧
    (x = 0xF#4 → s.params.vfOrder = .resultLast → (t.getV 0xF#4).toNat = result)

/-- The instruction completes, skips the next word exactly when `taken`, and changes nothing else. -/
def SkipsWhen (i : Instr) (s : State) (taken : Prop) : Prop :=
  ∃ t, exec i s = .next t ∧ (taken → t.pc = s.pc + 2#16) ∧ (¬ taken → t.pc = s.pc) ∧ SameExcept [.pc] s t

/-- The instruction enters the fault `f`. Nothing is said of the other parts of the state (60_exceptions.md R253). -/
def Raises (i : Instr) (s : State) (f : Fault) : Prop := ∃ t, exec i s = .next t ∧ t.mode = .faulted f

end Sys2Proof.Machine

namespace Sys2Proof

open Machine

/-! ### What an instruction may change -/

/-- The registers an instruction may write, as a result or as a flag (10_state.md R21, R22). -/
def Instr.mayWrite (i : Instr) (j : RegIx) : Prop :=
  match i with
  | .ldByte x _ | .addByte x _ | .ldReg x _ | .orReg x _ | .andReg x _ | .xorReg x _ => j = x
  | .addReg x _ | .sub x _ | .shr x _ | .subn x _ | .shl x _ => j = x ∨ j = 0xF#4
  | .rnd x _ | .ldVxDt x => j = x
  | .drw _ _ _ => j = 0xF#4
  | .ldVxMem x => j.toNat ≤ x.toNat
  | .sys _ | .cls _ | .ret _ | .jp _ | .call _ | .seByte _ _ | .sneByte _ _ | .seReg _ _ _ => False
  | .sneReg _ _ _ | .ldI _ | .jpV0 _ | .skp _ | .sknp _ | .ldVxK _ | .ldDtVx _ | .ldStVx _ => False
  | .addI _ | .ldF _ | .ldB _ | .ldMemVx _ => False

/-- The parts of the state an instruction may change, a fault it may raise being a change of `mode`. -/
def Instr.mayChange (i : Instr) : List Part :=
  match i with
  | .sys _ => []
  | .cls _ => [.display, .events]
  | .ret _ => [.pc, .sp, .mode]
  | .jp _ | .jpV0 _ => [.pc]
  | .call _ => [.pc, .sp, .stack, .mode]
  | .seByte _ _ | .sneByte _ _ | .seReg _ _ _ | .sneReg _ _ _ => [.pc]
  | .ldByte _ _ | .addByte _ _ | .ldReg _ _ | .orReg _ _ | .andReg _ _ | .xorReg _ _ => [.v]
  | .addReg _ _ | .sub _ _ | .shr _ _ | .subn _ _ | .shl _ _ | .ldVxDt _ => [.v]
  | .rnd _ _ => [.v, .draws]
  | .drw _ _ _ => [.v, .display, .events, .mode]
  | .skp _ | .sknp _ => [.pc, .mode]
  | .ldVxK _ => [.mode, .events]
  | .ldDtVx _ => [.dt]
  | .ldStVx _ => [.st]
  | .ldI _ | .ldF _ => [.i]
  | .addI _ => [.i, .mode]
  | .ldB _ | .ldMemVx _ => [.mem, .mode]
  | .ldVxMem _ => [.v, .mode]

/-- A flag instruction whose result goes to `VF` too, the only kind that `VF_ORDER` governs (00_scope.md R14). -/
def Instr.flagIntoItself (i : Instr) : Prop :=
  match i with
  | .addReg x _ | .sub x _ | .shr x _ | .subn x _ | .shl x _ => x = 0xF#4
  | .sys _ | .cls _ | .ret _ | .jp _ | .call _ | .seByte _ _ | .sneByte _ _ | .seReg _ _ _ => False
  | .ldByte _ _ | .addByte _ _ | .ldReg _ _ | .orReg _ _ | .andReg _ _ | .xorReg _ _ => False
  | .sneReg _ _ _ | .ldI _ | .jpV0 _ | .rnd _ _ | .drw _ _ _ | .skp _ | .sknp _ => False
  | .ldVxDt _ | .ldVxK _ | .ldDtVx _ | .ldStVx _ | .addI _ | .ldF _ | .ldB _ | .ldMemVx _ | .ldVxMem _ => False

end Sys2Proof

namespace Sys2Proof.Machine

open Config

/-- The state with another choice of `VF_ORDER` (00_scope.md R14). -/
def State.withVfOrder (s : State) (q : VfOrder) : State := { s with params := { s.params with vfOrder := q } }

/-- Two states that differ in nothing but stack entries not in use (10_state.md R27). -/
def SameBelowSp (s t : State) : Prop :=
  t = { s with stack := t.stack } ∧
    ∀ (j : Nat) (h : j < 16), j < s.sp.val → t.stack[j]'h = s.stack[j]'h

/-! ### The invariant -/

/-- What holds of every state the machine reaches: memory is in canonical form; `pc` is at most 0x10FE (10_state.md R25);
every return address on the stack is at most 0x1000, the address after the last word that can be fetched. -/
def State.Inv (s : State) : Prop :=
  s.mem.wf ∧ s.pc.toNat ≤ 0x10FE ∧ ∀ (j : Nat) (h : j < 16), j < s.sp.val → (s.stack[j]'h).toNat ≤ 0x1000

/-! ### The opcode map as a table -/

/-- A row of the opcode map: a word `op` matches it when `op & mask = pattern` (30_encoding.md R84). -/
structure MapRow where
  number : Nat
  pattern : Word
  mask : Word
  deriving DecidableEq, Repr

/-- The mask of `CLS` and `RET` (R84, R85). -/
def zeroMask (z : ZeroFamilyMatch) : Word :=
  match z with
  | .lowByte => 0xF0FF#16
  | .fullWord => 0xFFFF#16

/-- The opcode map (R84), the rows with a wider mask first. -/
def opcodeMap (z : ZeroFamilyMatch) : List MapRow :=
  [⟨2, 0x00E0#16, zeroMask z⟩, ⟨3, 0x00EE#16, zeroMask z⟩] ++
  [⟨11, 0x8000#16, 0xF00F#16⟩, ⟨12, 0x8001#16, 0xF00F#16⟩, ⟨13, 0x8002#16, 0xF00F#16⟩] ++
  [⟨14, 0x8003#16, 0xF00F#16⟩, ⟨15, 0x8004#16, 0xF00F#16⟩, ⟨16, 0x8005#16, 0xF00F#16⟩] ++
  [⟨17, 0x8006#16, 0xF00F#16⟩, ⟨18, 0x8007#16, 0xF00F#16⟩, ⟨19, 0x800E#16, 0xF00F#16⟩] ++
  [⟨25, 0xE09E#16, 0xF0FF#16⟩, ⟨26, 0xE0A1#16, 0xF0FF#16⟩, ⟨27, 0xF007#16, 0xF0FF#16⟩] ++
  [⟨28, 0xF00A#16, 0xF0FF#16⟩, ⟨29, 0xF015#16, 0xF0FF#16⟩, ⟨30, 0xF018#16, 0xF0FF#16⟩] ++
  [⟨31, 0xF01E#16, 0xF0FF#16⟩, ⟨32, 0xF029#16, 0xF0FF#16⟩, ⟨33, 0xF033#16, 0xF0FF#16⟩] ++
  [⟨34, 0xF055#16, 0xF0FF#16⟩, ⟨35, 0xF065#16, 0xF0FF#16⟩] ++
  [⟨1, 0x0000#16, 0xF000#16⟩, ⟨4, 0x1000#16, 0xF000#16⟩, ⟨5, 0x2000#16, 0xF000#16⟩] ++
  [⟨6, 0x3000#16, 0xF000#16⟩, ⟨7, 0x4000#16, 0xF000#16⟩, ⟨8, 0x5000#16, 0xF000#16⟩] ++
  [⟨9, 0x6000#16, 0xF000#16⟩, ⟨10, 0x7000#16, 0xF000#16⟩, ⟨20, 0x9000#16, 0xF000#16⟩] ++
  [⟨21, 0xA000#16, 0xF000#16⟩, ⟨22, 0xB000#16, 0xF000#16⟩, ⟨23, 0xC000#16, 0xF000#16⟩] ++
  [⟨24, 0xD000#16, 0xF000#16⟩]

/-- The number of the first row of the map that a word matches. -/
def mapRowOf (z : ZeroFamilyMatch) (op : Word) : Option Nat :=
  ((opcodeMap z).find? fun r => op &&& r.mask = r.pattern).map MapRow.number

end Sys2Proof.Machine

namespace Sys2Proof

/-- The number of an instruction's row in the opcode map (R84). -/
def Instr.rowNumber : Instr → Nat
  | .sys _ => 1
  | .cls _ => 2
  | .ret _ => 3
  | .jp _ => 4
  | .call _ => 5
  | .seByte _ _ => 6
  | .sneByte _ _ => 7
  | .seReg _ _ _ => 8
  | .ldByte _ _ => 9
  | .addByte _ _ => 10
  | .ldReg _ _ => 11
  | .orReg _ _ => 12
  | .andReg _ _ => 13
  | .xorReg _ _ => 14
  | .addReg _ _ => 15
  | .sub _ _ => 16
  | .shr _ _ => 17
  | .subn _ _ => 18
  | .shl _ _ => 19
  | .sneReg _ _ _ => 20
  | .ldI _ => 21
  | .jpV0 _ => 22
  | .rnd _ _ => 23
  | .drw _ _ _ => 24
  | .skp _ => 25
  | .sknp _ => 26
  | .ldVxDt _ => 27
  | .ldVxK _ => 28
  | .ldDtVx _ => 29
  | .ldStVx _ => 30
  | .addI _ => 31
  | .ldF _ => 32
  | .ldB _ => 33
  | .ldMemVx _ => 34
  | .ldVxMem _ => 35

end Sys2Proof

namespace Sys2Proof.Machine

open Config

/-- The row number of a decoding, none for an unknown word. -/
def decodedRow (r : Except Reject Instr) : Option Nat :=
  match r with
  | .ok i => some i.rowNumber
  | .error _ => none

/-! ### Ends of a run (70_reset_and_hazards.md R299) -/

/-- Idle at `l`: running, at `l`, and the word there is `JP l`. -/
def State.idleAt (s : State) (l : Addr) : Prop :=
  s.mode = .running ∧ s.pc = zextAddr l ∧ l.toNat ≤ 0xFFE ∧ fetchWord s = encode (.jp l)

/-- The run has ended in a fault. -/
def State.endedInFault (s : State) : Prop := ∃ f, s.mode = .faulted f

/-- The run waits for a key. -/
def State.waits (s : State) : Prop := ∃ x, s.mode = .waitingForKey x

/-- A state that some sequence of the host's moves reaches from `s`. -/
def Reaches (s t : State) : Prop := ∃ as, actAll as s = .next t

end Sys2Proof.Machine
end

