-- ==== Sys2Proof/Certificates/Slice0/Obligations.lean ====
section
/-! DEFINITION. The statements for the provers, each taken from the rules of spec/ that its entry in OBLIGATIONS.json
cites. Every instruction has at least one statement whose conclusion is that it answers a next state. A cited row of
notes/assumptions/ is the model's choice or inference, not a rule of the spec. Every frame (`SameExcept`) also says that
the model's own fields, the parameters, the counter of draws and the list of events, are the same unless named
(notes/assumptions/2.md, 3.md, 7.md). -/

open Sys2Proof Sys2Proof.Machine Sys2Proof.Config

/-- Decoding the word of a well-formed instruction gives the instruction back (30_encoding.md sections 1 to 4,
92_eei_decisions.md D1, D6, D7, notes/assumptions/8.md). -/
def Obligations.DecodeEncodeRoundTrip : Prop :=
  ∀ (z : ZeroFamilyMatch) (i : Instr), i.wellFormed z = true → decode z (encode i) = .ok i

/-- Every word that decodes is the word of its instruction, unexamined bits included (the model's choice: log entry 8)
(30_encoding.md sections 1 to 4, 30_encoding.md R85, R86, R95, 92_eei_decisions.md D1, D6, D7,
notes/assumptions/8.md). -/
def Obligations.EncodeOfDecodedWord : Prop :=
  ∀ (z : ZeroFamilyMatch) (op : Word) (i : Instr), decode z op = .ok i → encode i = op ∧ i.wellFormed z = true

/-- The decoder reads each word as the first row of the opcode map whose mask and pattern match it (30_encoding.md
section 3, spec/opcode_table.json, 92_eei_decisions.md D1, D6). -/
def Obligations.DecoderFollowsOpcodeMap : Prop :=
  ∀ (z : ZeroFamilyMatch) (op : Word), decodedRow (decode z op) = mapRowOf z op

/-- The unknown words are exactly those of families 8, E and F with no second key of the map (30_encoding.md R85, R86,
R88, 92_eei_decisions.md D1, D6, D7). -/
def Obligations.UnknownWordsAreExactlyThese : Prop :=
  ∀ (z : ZeroFamilyMatch) (op : Word), (∃ r, decode z op = .error r) ↔
    (op.toNat / 4096 = 0x8 ∧ (op.toNat % 16 = 0xF ∨ 8 ≤ op.toNat % 16 ∧ op.toNat % 16 ≤ 0xD)) ∨
    (op.toNat / 4096 = 0xE ∧ op.toNat % 256 ≠ 0x9E ∧ op.toNat % 256 ≠ 0xA1) ∨
    (op.toNat / 4096 = 0xF ∧ op.toNat % 256 ∉ [0x07, 0x0A, 0x15, 0x18, 0x1E, 0x29, 0x33, 0x55, 0x65])

/-- The words the spec prints decode to the instructions it says they are (95_test_vectors.md Part 1, 30_encoding.md
section 3, 92_eei_decisions.md D1, notes/assumptions/8.md). -/
def Obligations.SpecWordsDecode : Prop :=
  decode .lowByte 0x35FE#16 = .ok (.seByte 0x5#4 0xFE#8) ∧ decode .lowByte 0x8106#16 = .ok (.shr 0x1#4 0x0#4) ∧
  decode .lowByte 0x81C6#16 = .ok (.shr 0x1#4 0xC#4) ∧ decode .lowByte 0xFD55#16 = .ok (.ldMemVx 0xD#4) ∧
  decode .lowByte 0xD5FC#16 = .ok (.drw 0x5#4 0xF#4 0xC#4) ∧ decode .lowByte 0x0123#16 = .ok (.sys 0x123#12) ∧
  decode .lowByte 0x1234#16 = .ok (.jp 0x234#12) ∧ decode .lowByte 0x2210#16 = .ok (.call 0x210#12) ∧
  decode .lowByte 0x4A10#16 = .ok (.sneByte 0xA#4 0x10#8) ∧ decode .lowByte 0x5120#16 = .ok (.seReg 0x1#4 0x2#4 0x0#4) ∧
  decode .lowByte 0x6005#16 = .ok (.ldByte 0x0#4 0x05#8) ∧ decode .lowByte 0x7003#16 = .ok (.addByte 0x0#4 0x03#8) ∧
  decode .lowByte 0x9120#16 = .ok (.sneReg 0x1#4 0x2#4 0x0#4) ∧ decode .lowByte 0xA300#16 = .ok (.ldI 0x300#12) ∧
  decode .lowByte 0xB300#16 = .ok (.jpV0 0x300#12) ∧ decode .lowByte 0xC30F#16 = .ok (.rnd 0x3#4 0x0F#8) ∧
  decode .lowByte 0xE39E#16 = .ok (.skp 0x3#4) ∧ decode .lowByte 0xF207#16 = .ok (.ldVxDt 0x2#4)

/-- A step runs the instruction that the two bytes at pc decode to, on the state with pc advanced by 2 (R113). -/
def Obligations.StepRunsDecodedInstruction : Prop :=
  ∀ (s : State) (i : Instr), s.mode = .running → s.pc.toNat ≤ 0xFFE →
    decode s.params.zeroMatch (BitVec.ofNat 16
      ((s.mem.read s.pc.toNat).toNat * 256 + (s.mem.read (s.pc.toNat + 1)).toNat)) = .ok i →
    step s = exec i { s with pc := s.pc + 2#16 }

/-- A fetch that needs a byte above 0xFFF enters the fault MemoryOutOfRange (entry as a next state: log entry 1)
(20_memory.md section 4, 40_cycle.md, 60_exceptions.md section 1, 92_eei_decisions.md D10, D12,
notes/assumptions/1.md). -/
def Obligations.FetchPastMemoryFaults : Prop :=
  ∀ s : State, s.mode = .running → 0xFFE < s.pc.toNat →
    ∃ t, step s = .next t ∧
      t.mode = .faulted (.memoryOutOfRange .fetch (max s.pc.toNat 0x1000) s.pc none)

/-- An unknown word and SYS only advance pc by 2 (R87). -/
def Obligations.UnknownWordsAndSysAreNoOps : Prop :=
  (∀ (s : State) (r : Reject), s.mode = .running → s.pc.toNat ≤ 0xFFE →
    decode s.params.zeroMatch (BitVec.ofNat 16
      ((s.mem.read s.pc.toNat).toNat * 256 + (s.mem.read (s.pc.toNat + 1)).toNat)) = .error r →
    ∃ t, step s = .next t ∧ t.pc.toNat = s.pc.toNat + 2 ∧ SameExcept [.pc] s t) ∧
  (∀ (s : State) (nnn : Addr), ∃ t, exec (.sys nnn) s = .next t ∧ SameExcept [] s t)

/-- While waiting for a key a step changes nothing, and neither a tick nor set_key ends the wait (R114). -/
def Obligations.WaitingMachineIgnoresSteps : Prop :=
  ∀ (s : State) (x : RegIx), s.mode = .waitingForKey x →
    step s = .next s ∧ (tick s).mode = .waitingForKey x ∧
      ∀ (k : Nat) (b : Bool), k ≤ 15 → ∃ t, setKey k b s = .next t ∧ t.mode = .waitingForKey x

/-- After a fault no step, tick, set_key or key press changes anything (decisions D10, D31) (60_exceptions.md section
1, 92_eei_decisions.md D10, D31, notes/assumptions/1.md, notes/assumptions/9.md). -/
def Obligations.FaultedMachineStaysAsItIs : Prop :=
  ∀ (s : State) (f : Fault), s.mode = .faulted f →
    step s = .next s ∧ tick s = s ∧
      ∀ k : Nat, k ≤ 15 → (∀ b : Bool, setKey k b s = .next s) ∧ keyPress k s = .next s

/-- Every step and every instruction on every state answers a next state, a fault included (the model's choice: log
entry 1, decision D10) (40_cycle.md R118, 30_encoding.md R89, 60_exceptions.md R252, 92_eei_decisions.md D10,
notes/assumptions/1.md). -/
def Obligations.StepAlwaysAnswersNext : Prop :=
  (∀ s : State, ∃ t, step s = .next t) ∧ (∀ (i : Instr) (s : State), ∃ t, exec i s = .next t)

/-- LD Vx, byte, LD Vx, Vy and LD Vx, DT write their register and change nothing else (decision D2) (43_alu.md,
44_index_timer_memory.md, 92_eei_decisions.md D2). -/
def Obligations.LoadsWriteTheirRegister : Prop :=
  (∀ (s : State) (x : RegIx) (kk : Byte), WritesRegister (.ldByte x kk) s x kk) ∧
  (∀ (s : State) (x y : RegIx), WritesRegister (.ldReg x y) s x (s.getV y)) ∧
  (∀ (s : State) (x : RegIx), WritesRegister (.ldVxDt x) s x s.dt)

/-- ADD Vx, byte adds modulo 256 and sets no flag (R162). -/
def Obligations.AddByteWrapsWithoutFlag : Prop :=
  ∀ (s : State) (x : RegIx) (kk r : Byte), r.toNat = ((s.getV x).toNat + kk.toNat) % 256 →
    WritesRegister (.addByte x kk) s x r

/-- OR, AND and XOR write the bitwise result and leave VF as it is (decision D4) (43_alu.md, 92_eei_decisions.md D2,
D4). -/
def Obligations.BitwiseKeepTheFlag : Prop :=
  ∀ (s : State) (x y : RegIx),
    WritesRegister (.orReg x y) s x (s.getV x ||| s.getV y) ∧
    WritesRegister (.andReg x y) s x (s.getV x &&& s.getV y) ∧
    WritesRegister (.xorReg x y) s x (s.getV x ^^^ s.getV y)

/-- ADD Vx, Vy writes the sum modulo 256 and the carry (R167). -/
def Obligations.AddRegisterCarries : Prop :=
  ∀ (s : State) (x y : RegIx), WritesResultAndFlag (.addReg x y) s x
    (((s.getV x).toNat + (s.getV y).toNat) % 256)
    (if 0xFF < (s.getV x).toNat + (s.getV y).toNat then 1 else 0)

/-- SUB Vx, Vy saturates at 0 and sets the strict not-borrow flag (R168). -/
def Obligations.SubSaturates : Prop :=
  ∀ (s : State) (x y : RegIx), WritesResultAndFlag (.sub x y) s x
    ((s.getV x).toNat - (s.getV y).toNat)
    (if (s.getV y).toNat < (s.getV x).toNat then 1 else 0)

/-- SUBN Vx, Vy subtracts the other way, saturating at 0 (R170). -/
def Obligations.SubnSaturates : Prop :=
  ∀ (s : State) (x y : RegIx), WritesResultAndFlag (.subn x y) s x
    ((s.getV y).toNat - (s.getV x).toNat)
    (if (s.getV x).toNat < (s.getV y).toNat then 1 else 0)

/-- SHR Vx halves V[x], puts the bit shifted out into VF and does not read V[y] (decision D5) (43_alu.md, 00_scope.md
R8, R14, 92_eei_decisions.md D3, D5, notes/assumptions/2.md). -/
def Obligations.ShrHalves : Prop :=
  ∀ (s : State) (x y : RegIx), WritesResultAndFlag (.shr x y) s x
    ((s.getV x).toNat / 2) ((s.getV x).toNat % 2)

/-- SHL Vx doubles V[x] modulo 256, puts the bit shifted out into VF and does not read V[y] (decision D5) (43_alu.md,
00_scope.md R8, R14, 92_eei_decisions.md D3, D5, notes/assumptions/2.md). -/
def Obligations.ShlDoubles : Prop :=
  ∀ (s : State) (x y : RegIx), WritesResultAndFlag (.shl x y) s x
    (2 * (s.getV x).toNat % 256) ((s.getV x).toNat / 128)

/-- VF_ORDER plays no part but for a flag instruction whose result goes to VF (70_reset_and_hazards.md R296,
00_scope.md R8, R14, 92_eei_decisions.md D3, 60_exceptions.md R253, notes/assumptions/1.md,
notes/assumptions/2.md). -/
def Obligations.VfOrderMattersOnlyForItsOwnCase : Prop :=
  ∀ (i : Instr) (s t : State) (q : VfOrder), ¬ i.flagIntoItself → exec i s = .next t →
    exec i (s.withVfOrder q) = .next (t.withVfOrder q)

/-- CLS clears every pixel within its own step and signals it (decisions D21, D35; log entry 7) (41_control.md,
92_eei_decisions.md D2, D21, D35, notes/assumptions/7.md). -/
def Obligations.ClsClearsDisplay : Prop :=
  ∀ (s : State) (x : Nibble), ∃ t, exec (.cls x) s = .next t ∧ (∀ px py, t.pixel px py = false) ∧
    t.events = s.events ++ [.displayCleared] ∧ SameExcept [.display, .events] s t

/-- JP addr sets pc to nnn, whatever nnn is (decision D2) (41_control.md, 92_eei_decisions.md D2). -/
def Obligations.JumpSetsPc : Prop :=
  ∀ (s : State) (nnn : Addr), ∃ t, exec (.jp nnn) s = .next t ∧ t.pc.toNat = nnn.toNat ∧ SameExcept [.pc] s t

/-- JP V0, addr sets pc to nnn + V0 without a mask (decision D33) (41_control.md, 92_eei_decisions.md D2, D33). -/
def Obligations.JumpV0AddsUnmasked : Prop :=
  ∀ (s : State) (nnn : Addr), ∃ t, exec (.jpV0 nnn) s = .next t ∧
    t.pc.toNat = nnn.toNat + (s.getV 0x0#4).toNat ∧ SameExcept [.pc] s t

/-- CALL with fewer than 16 return addresses pushed pushes pc and jumps (depth 16: decision D22) (41_control.md,
92_eei_decisions.md D2, D22). -/
def Obligations.CallPushesReturnAddress : Prop :=
  ∀ (s : State) (nnn : Addr) (h : s.sp.val < 16), ∃ t, exec (.call nnn) s = .next t ∧
    t.sp.val = s.sp.val + 1 ∧ t.pc.toNat = nnn.toNat ∧ t.stack[s.sp.val]'h = s.pc ∧
    (∀ (j : Nat) (hj : j < 16), j ≠ s.sp.val → t.stack[j]'hj = s.stack[j]'hj) ∧
    SameExcept [.pc, .sp, .stack] s t

/-- RET with a return address pushed pops it into pc (decision D2) (41_control.md, 92_eei_decisions.md D2). -/
def Obligations.RetPopsReturnAddress : Prop :=
  ∀ (s : State) (x : Nibble) (j : Nat) (hj : j < 16), s.sp.val = j + 1 → ∃ t, exec (.ret x) s = .next t ∧
    t.pc = s.stack[j]'hj ∧ t.sp.val = j ∧ SameExcept [.pc, .sp] s t

/-- CALL on a full stack and RET on an empty one enter their faults (decisions D22, D10; log entry 1) (41_control.md,
60_exceptions.md section 1, 92_eei_decisions.md D10, D11, D22, notes/assumptions/1.md, notes/assumptions/8.md,
notes/assumptions/11.md). -/
def Obligations.StackFaults : Prop :=
  (∀ (s : State) (nnn : Addr), s.sp.val = 16 →
    Raises (.call nnn) s (.stackOverflow (s.pc - 2#16) (encode (.call nnn)))) ∧
  (∀ (s : State) (x : Nibble), s.sp.val = 0 →
    Raises (.ret x) s (.stackUnderflow (s.pc - 2#16) (encode (.ret x))))

/-- A RET after a CALL goes back to the instruction after the CALL, with the stack depth as it was (D2, D22)
(41_control.md, 92_eei_decisions.md D2, D22). -/
def Obligations.CallThenRetReturns : Prop :=
  ∀ (s : State) (nnn : Addr) (x : Nibble), s.sp.val < 16 →
    ∃ t u, exec (.call nnn) s = .next t ∧ exec (.ret x) t = .next u ∧ SameExcept [.stack] s u

/-- No step lets a stack entry that is not in use show (10_state.md R27, 93_implementation_defined.md I17,
60_exceptions.md R253, notes/assumptions/1.md). -/
def Obligations.StackEntriesAboveSpAreNotObservable : Prop :=
  ∀ s s' t : State, SameBelowSp s s' → step s = .next t → ∃ t', step s' = .next t' ∧ SameBelowSp t t'

/-- SE Vx, byte skips exactly when V[x] = kk, SNE Vx, byte exactly when not (decision D2) (42_skips.md,
92_eei_decisions.md D2). -/
def Obligations.SkipsOnByte : Prop :=
  ∀ (s : State) (x : RegIx) (kk : Byte),
    SkipsWhen (.seByte x kk) s (s.getV x = kk) ∧ SkipsWhen (.sneByte x kk) s (s.getV x ≠ kk)

/-- SE Vx, Vy skips exactly when V[x] = V[y], SNE Vx, Vy exactly when not, whatever the low nibble (decision D7)
(42_skips.md, 92_eei_decisions.md D2, D7). -/
def Obligations.SkipsOnRegisters : Prop :=
  ∀ (s : State) (x y : RegIx) (n : Nibble),
    SkipsWhen (.seReg x y n) s (s.getV x = s.getV y) ∧ SkipsWhen (.sneReg x y n) s (s.getV x ≠ s.getV y)

/-- SKP skips exactly when the key V[x] names is down, SKNP exactly when it is up (decision D2) (47_keys.md,
92_eei_decisions.md D2). -/
def Obligations.KeySkipsTestTheKey : Prop :=
  ∀ (s : State) (x k : RegIx), (s.getV x).toNat = k.toNat →
    SkipsWhen (.skp x) s (s.key k = true) ∧ SkipsWhen (.sknp x) s (s.key k = false)

/-- SKP and SKNP with V[x] above 15 fault or use the low nibble, as KEY_INDEX_OOR says (decision D14) (47_keys.md,
60_exceptions.md section 1, 92_eei_decisions.md D10, D11, D14, notes/assumptions/1.md, notes/assumptions/2.md,
notes/assumptions/8.md, notes/assumptions/11.md). -/
def Obligations.KeyIndexAboveFifteen : Prop :=
  ∀ (s : State) (x : RegIx), 15 < (s.getV x).toNat →
    (s.params.keyIndexOor = .fault →
      Raises (.skp x) s (.keyIndexOutOfRange (s.pc - 2#16) (encode (.skp x)) (s.getV x)) ∧
      Raises (.sknp x) s (.keyIndexOutOfRange (s.pc - 2#16) (encode (.sknp x)) (s.getV x))) ∧
    (s.params.keyIndexOor = .lowNibble → ∀ k : RegIx, k.toNat = (s.getV x).toNat % 16 →
      SkipsWhen (.skp x) s (s.key k = true) ∧ SkipsWhen (.sknp x) s (s.key k = false))

/-- LD I, addr sets I to nnn (decision D2) (44_index_timer_memory.md, 92_eei_decisions.md D2). -/
def Obligations.LoadIndexAddress : Prop :=
  ∀ (s : State) (nnn : Addr), ∃ t, exec (.ldI nnn) s = .next t ∧ t.i.toNat = nnn.toNat ∧ SameExcept [.i] s t

/-- ADD I, Vx adds without a mask while the sum fits 16 bits (44_index_timer_memory.md). -/
def Obligations.AddToIndexIsUnmasked : Prop :=
  ∀ (s : State) (x : RegIx), s.i.toNat + (s.getV x).toNat ≤ 0xFFFF → ∃ t, exec (.addI x) s = .next t ∧
    t.i.toNat = s.i.toNat + (s.getV x).toNat ∧ SameExcept [.i] s t

/-- ADD I, Vx past 0xFFFF faults or wraps, as I_OVERFLOW says (decision D13) (44_index_timer_memory.md,
60_exceptions.md section 1, 92_eei_decisions.md D10, D11, D13, notes/assumptions/1.md, notes/assumptions/2.md,
notes/assumptions/8.md, notes/assumptions/11.md). -/
def Obligations.AddToIndexPastSixteenBits : Prop :=
  ∀ (s : State) (x : RegIx), 0xFFFF < s.i.toNat + (s.getV x).toNat →
    (s.params.iOverflow = .fault →
      Raises (.addI x) s (.indexOverflow (s.pc - 2#16) (encode (.addI x)) s.i (s.getV x))) ∧
    (s.params.iOverflow = .wrap → ∃ t, exec (.addI x) s = .next t ∧
      t.i.toNat + 0x10000 = s.i.toNat + (s.getV x).toNat ∧ SameExcept [.i] s t)

/-- LD DT, Vx and LD ST, Vx set their timer; sound_on follows ST at once (decision D2) (44_index_timer_memory.md,
60_exceptions.md R261, 92_eei_decisions.md D2). -/
def Obligations.TimerWrites : Prop :=
  (∀ (s : State) (x : RegIx), ∃ t, exec (.ldDtVx x) s = .next t ∧ t.dt = s.getV x ∧ SameExcept [.dt] s t) ∧
  (∀ (s : State) (x : RegIx), ∃ t, exec (.ldStVx x) s = .next t ∧ t.st = s.getV x ∧
    (t.soundOn = true ↔ 0 < (s.getV x).toNat) ∧ SameExcept [.st] s t)

/-- LD F, Vx sets I to FONT_BASE + 5 * d, d being V[x] or its low nibble as FONT_INDEX says (D2, D15)
(44_index_timer_memory.md, 00_scope.md R8, 92_eei_decisions.md D2, D15, D16, notes/assumptions/2.md). -/
def Obligations.FontGlyphAddress : Prop :=
  ∀ (s : State) (x : RegIx), ∃ t, exec (.ldF x) s = .next t ∧
    (s.params.fontIndex = .unmasked → t.i.toNat = s.params.fontBase.val + 5 * (s.getV x).toNat) ∧
    (s.params.fontIndex = .lowNibble → t.i.toNat = s.params.fontBase.val + 5 * ((s.getV x).toNat % 16)) ∧
    SameExcept [.i] s t

/-- LD Vx, K enters the key wait, whatever keys are down, and writes no register (decisions D23, D35; log entry 7)
(44_index_timer_memory.md, 92_eei_decisions.md D23, D35, notes/assumptions/7.md). -/
def Obligations.KeyWaitIsEntered : Prop :=
  ∀ (s : State) (x : RegIx), ∃ t, exec (.ldVxK x) s = .next t ∧ t.mode = .waitingForKey x ∧
    t.holdForKey = some x ∧ t.events = s.events ++ [.keyWaitEntered x] ∧ SameExcept [.mode, .events] s t

/-- LD B, Vx stores the three decimal digits of V[x] at I, I+1, I+2 (44_index_timer_memory.md R197). -/
def Obligations.BcdStoresDigits : Prop :=
  ∀ (s : State) (x : RegIx), s.i.toNat + 2 ≤ 0xFFF → ∃ t, exec (.ldB x) s = .next t ∧
    (t.mem.read s.i.toNat).toNat = (s.getV x).toNat / 100 ∧
    (t.mem.read (s.i.toNat + 1)).toNat = (s.getV x).toNat / 10 % 10 ∧
    (t.mem.read (s.i.toNat + 2)).toNat = (s.getV x).toNat % 10 ∧
    MemSameOutside s.i.toNat 3 s t ∧ SameExcept [.mem] s t

/-- LD [I], Vx stores V0 to V[x] at I to I+x and nothing else (44_index_timer_memory.md R198). -/
def Obligations.BlockStoreWritesRegisters : Prop :=
  ∀ (s : State) (x : RegIx), s.i.toNat + x.toNat ≤ 0xFFF → ∃ t, exec (.ldMemVx x) s = .next t ∧
    (∀ j : RegIx, j.toNat ≤ x.toNat → t.mem.read (s.i.toNat + j.toNat) = s.getV j) ∧
    MemSameOutside s.i.toNat (x.toNat + 1) s t ∧ SameExcept [.mem] s t

/-- LD Vx, [I] loads V0 to V[x] from I to I+x and changes no other register (44_index_timer_memory.md R199). -/
def Obligations.BlockLoadReadsRegisters : Prop :=
  ∀ (s : State) (x : RegIx), s.i.toNat + x.toNat ≤ 0xFFF → ∃ t, exec (.ldVxMem x) s = .next t ∧
    (∀ j : RegIx, j.toNat ≤ x.toNat → t.getV j = s.mem.read (s.i.toNat + j.toNat)) ∧
    (∀ j : RegIx, x.toNat < j.toNat → t.getV j = s.getV j) ∧ SameExcept [.v] s t

/-- LD B, LD [I], LD Vx, [I] and DRW that would reach an address above 0xFFF enter MemoryOutOfRange (D10, D12; log
entry 1) (44_index_timer_memory.md, 46_draw.md, 20_memory.md R55, R57, 60_exceptions.md section 1,
92_eei_decisions.md D10, D11, D12, notes/assumptions/1.md, notes/assumptions/8.md, notes/assumptions/11.md). -/
def Obligations.MemoryFormsFaultPastMemory : Prop :=
  ∀ (s : State) (x y : RegIx) (n : Nibble),
    (0xFFF < s.i.toNat + 2 → Raises (.ldB x) s
      (.memoryOutOfRange .write (max s.i.toNat 0x1000) (s.pc - 2#16) (some (encode (.ldB x))))) ∧
    (0xFFF < s.i.toNat + x.toNat → Raises (.ldMemVx x) s
      (.memoryOutOfRange .write (max s.i.toNat 0x1000) (s.pc - 2#16) (some (encode (.ldMemVx x))))) ∧
    (0xFFF < s.i.toNat + x.toNat → Raises (.ldVxMem x) s
      (.memoryOutOfRange .read (max s.i.toNat 0x1000) (s.pc - 2#16) (some (encode (.ldVxMem x))))) ∧
    (1 ≤ n.toNat → 0xFFF < s.i.toNat + (n.toNat - 1) → Raises (.drw x y n) s
      (.memoryOutOfRange .read (max s.i.toNat 0x1000) (s.pc - 2#16) (some (encode (.drw x y n)))))

/-- A word stored at pc by LD [I], Vx is what the very next step executes (20_memory.md R66, 70_reset_and_hazards.md
R295). -/
def Obligations.StoredWordIsTheNextFetched : Prop :=
  ∀ (s : State) (x : RegIx), s.mode = .running → s.i = s.pc → 1 ≤ x.toNat → s.i.toNat + x.toNat ≤ 0xFFF →
    ∃ t, exec (.ldMemVx x) s = .next t ∧
      ∀ i : Instr, decode s.params.zeroMatch
          (BitVec.ofNat 16 ((s.getV 0x0#4).toNat * 256 + (s.getV 0x1#4).toNat)) = .ok i →
        step t = exec i { t with pc := t.pc + 2#16 }

/-- RND Vx, byte writes the drawn byte masked by kk, for every draw (decision D25; log entry 3) (45_random.md,
92_eei_decisions.md D2, D25, notes/assumptions/3.md). -/
def Obligations.RandomIsMasked : Prop :=
  ∀ (s : State) (x : RegIx) (kk : Byte), ∃ t, exec (.rnd x kk) s = .next t ∧
    t.getV x = Config.randomByte s.draws &&& kk ∧
    (∀ b : Nat, kk.getLsbD b = false → (t.getV x).getLsbD b = false) ∧
    t.draws = s.draws + 1 ∧ RegsSameExcept [x] s t ∧ SameExcept [.v, .draws] s t

/-- DRW inverts exactly the pixels a set sprite bit lands on, wrapping, and signals it (decisions D26, D30, D35; log
entry 7) (46_draw.md, 92_eei_decisions.md D26, D30, D35, notes/assumptions/7.md). -/
def Obligations.DrawXorsTheSprite : Prop :=
  ∀ (s : State) (x y : RegIx) (n : Nibble), n.toNat = 0 ∨ s.i.toNat + n.toNat ≤ 0x1000 →
    ∃ t, exec (.drw x y n) s = .next t ∧
      (∀ (px : Fin 64) (py : Fin 32), t.pixel px py ≠ s.pixel px py ↔
        ∃ r c : Nat, r < n.toNat ∧ c < 8 ∧ (s.mem.read (s.i.toNat + r)).getLsbD (7 - c) = true ∧
          px.val = ((s.getV x).toNat + c) % 64 ∧ py.val = ((s.getV y).toNat + r) % 32) ∧
      t.events = s.events ++ [.displayChanged] ∧ RegsSameExcept [0xF#4] s t ∧
      SameExcept [.v, .display, .events] s t

/-- DRW sets VF to 1 exactly when some pixel went from 1 to 0, else to 0 (R228). -/
def Obligations.CollisionFlag : Prop :=
  ∀ (s : State) (x y : RegIx) (n : Nibble), n.toNat = 0 ∨ s.i.toNat + n.toNat ≤ 0x1000 →
    ∃ t, exec (.drw x y n) s = .next t ∧
      (t.getV 0xF#4 = 1#8 ↔ ∃ px py, s.pixel px py = true ∧ t.pixel px py = false) ∧
      (t.getV 0xF#4 = 0#8 ↔ ¬ ∃ px py, s.pixel px py = true ∧ t.pixel px py = false)

/-- The same sprite drawn twice in a row leaves the display as it was (46_draw.md, 95_test_vectors.md T-DRW-4). -/
def Obligations.DrawTwiceRestoresDisplay : Prop :=
  ∀ (s : State) (x y : RegIx) (n : Nibble), x ≠ 0xF#4 → y ≠ 0xF#4 →
    (n.toNat = 0 ∨ s.i.toNat + n.toNat ≤ 0x1000) →
    ∃ t u, exec (.drw x y n) s = .next t ∧ exec (.drw x y n) t = .next u ∧
      ∀ px py, u.pixel px py = s.pixel px py

/-- A tick lowers both timers by 1, floor 0, and changes nothing else (60_exceptions.md section 3, 92_eei_decisions.md
D31, notes/assumptions/9.md). -/
def Obligations.TickCountsDown : Prop :=
  ∀ s : State, (∀ f, s.mode ≠ .faulted f) → (tick s).dt.toNat = s.dt.toNat - 1 ∧
    (tick s).st.toNat = s.st.toNat - 1 ∧ SameExcept [.dt, .st] s (tick s)

/-- set_key sets one key state, ends no wait, and refuses an index above 15 (R263). -/
def Obligations.SetKeySetsOneKey : Prop :=
  (∀ (s : State) (k : RegIx) (b : Bool), (∀ f, s.mode ≠ .faulted f) → ∃ t, setKey k.toNat b s = .next t ∧
    t.key k = b ∧ (∀ j : RegIx, j ≠ k → t.key j = s.key j) ∧ SameExcept [.keys] s t) ∧
  (∀ (s : State) (k : Nat) (b : Bool), 15 < k → setKey k b s = .refused .keyIndexOutsideInterface)

/-- A key press ends a key wait, only sets the key while running, and is refused above 15 (decisions D23, D35; log
entries 7, 9) (60_exceptions.md R264, 60_exceptions.md R265, 93_implementation_defined.md I15, 92_eei_decisions.md
D23, D35, notes/assumptions/7.md, notes/assumptions/9.md). -/
def Obligations.KeyPressEndsTheWait : Prop :=
  (∀ (s : State) (x k : RegIx), s.mode = .waitingForKey x → ∃ t, keyPress k.toNat s = .next t ∧
    t.mode = .running ∧ (t.getV x).toNat = k.toNat ∧ RegsSameExcept [x] s t ∧
    t.key k = true ∧ (∀ j : RegIx, j ≠ k → t.key j = s.key j) ∧
    t.events = s.events ++ [.keyWaitResolved x k] ∧ SameExcept [.v, .keys, .mode, .events] s t) ∧
  (∀ (s : State) (k : RegIx), s.mode = .running → ∃ t, keyPress k.toNat s = .next t ∧
    t.key k = true ∧ (∀ j : RegIx, j ≠ k → t.key j = s.key j) ∧ SameExcept [.keys] s t) ∧
  (∀ (s : State) (k : Nat), 15 < k → keyPress k s = .refused .keyIndexOutsideInterface)

/-- No instruction writes a register the spec does not name for it; VF as a flag only by the six flag instructions
(10_state.md section 1, 92_eei_decisions.md D2, D4, D5, 60_exceptions.md R253, notes/assumptions/1.md). -/
def Obligations.InstructionsWriteOnlyTheirRegisters : Prop :=
  ∀ (i : Instr) (s t : State) (j : RegIx), exec i s = .next t → ¬ i.mayWrite j → t.getV j = s.getV j

/-- No instruction changes a part the spec does not name for it, nor, by the model's choice, one of its own fields (log
entries 1, 2, 3, 7) (10_state.md R22, R23, R25, R26, R27, R28, R29, R30, R31, R33, 20_memory.md R51,
60_exceptions.md R253, R260, R262, 45_random.md R221, 00_scope.md R8, 92_eei_decisions.md D2, D10, D21, D25, D35,
notes/assumptions/1.md, notes/assumptions/2.md, notes/assumptions/3.md, notes/assumptions/7.md). -/
def Obligations.InstructionsChangeOnlyTheirParts : Prop :=
  ∀ (i : Instr) (s t : State), exec i s = .next t → SameExcept i.mayChange s t

/-- A fault in execute is one of the causes of the spec's table, from its instruction, under its condition, with its
information (60_exceptions.md section 1, 20_memory.md R57, 92_eei_decisions.md D10, D11, D12, D13, D14,
notes/assumptions/1.md, notes/assumptions/2.md, notes/assumptions/8.md, notes/assumptions/11.md). -/
def Obligations.FaultsComeFromTheirInstructions : Prop :=
  ∀ (i : Instr) (s t : State) (f : Fault), s.mode = .running → exec i s = .next t → t.mode = .faulted f →
    (∃ nnn, i = .call nnn ∧ s.sp.val = 16 ∧ f = .stackOverflow (s.pc - 2#16) (encode i)) ∨
    (∃ x, i = .ret x ∧ s.sp.val = 0 ∧ f = .stackUnderflow (s.pc - 2#16) (encode i)) ∨
    (∃ x, i = .addI x ∧ 0xFFFF < s.i.toNat + (s.getV x).toNat ∧ s.params.iOverflow = .fault ∧
      f = .indexOverflow (s.pc - 2#16) (encode i) s.i (s.getV x)) ∨
    (∃ x, (i = .skp x ∨ i = .sknp x) ∧ 15 < (s.getV x).toNat ∧ s.params.keyIndexOor = .fault ∧
      f = .keyIndexOutOfRange (s.pc - 2#16) (encode i) (s.getV x)) ∨
    (∃ x, ((i = .ldB x ∧ 0xFFF < s.i.toNat + 2) ∨ (i = .ldMemVx x ∧ 0xFFF < s.i.toNat + x.toNat)) ∧
      f = .memoryOutOfRange .write (max s.i.toNat 0x1000) (s.pc - 2#16) (some (encode i))) ∨
    (∃ x, ((i = .ldVxMem x ∧ 0xFFF < s.i.toNat + x.toNat) ∨
        ∃ y n, i = .drw x y n ∧ 0 < n.toNat ∧ 0x1000 < s.i.toNat + n.toNat) ∧
      f = .memoryOutOfRange .read (max s.i.toNat 0x1000) (s.pc - 2#16) (some (encode i)))

/-- A step leaves Running only by LD Vx, K or by a fault (10_state.md R33, 60_exceptions.md R258, 92_eei_decisions.md
D10, notes/assumptions/1.md). -/
def Obligations.ModeChangesOnlyByKeyWaitOrFault : Prop :=
  ∀ s t : State, s.mode = .running → step s = .next t →
    t.mode = .running ∨
    (∃ x, t.mode = .waitingForKey x ∧ decode s.params.zeroMatch (BitVec.ofNat 16
      ((s.mem.read s.pc.toNat).toNat * 256 + (s.mem.read (s.pc.toNat + 1)).toNat)) = .ok (.ldVxK x)) ∨
    (∃ f, t.mode = .faulted f)

/-- Every step keeps the invariant: memory canonical, pc at most 0x10FE, return addresses at most 0x1000 (10_state.md
R25, 10_state.md R34, 20_memory.md R55, 60_exceptions.md R253, notes/assumptions/1.md, notes/assumptions/6.md). -/
def Obligations.StepKeepsInvariant : Prop :=
  ∀ s t : State, s.Inv → step s = .next t → t.Inv

/-- The reset state meets the invariant; its values are choices (decisions D16 to D20; log entries 4, 5, 6)
(10_state.md section 10, 10_state.md R25, 92_eei_decisions.md D16-D20, notes/assumptions/4.md,
notes/assumptions/5.md, notes/assumptions/6.md). -/
def Obligations.ResetMeetsInvariant : Prop :=
  State.reset.Inv

/-- Every run keeps the invariant, whatever the host does between the steps, and its parameters (the model's choice:
log entry 2) (70_reset_and_hazards.md R301, 60_exceptions.md R270, 10_state.md R25, 00_scope.md R8,
60_exceptions.md R253, notes/assumptions/1.md, notes/assumptions/2.md, notes/assumptions/6.md,
notes/assumptions/9.md). -/
def Obligations.RunsKeepInvariant : Prop :=
  ∀ (moves : List Action) (s t : State), s.Inv → actAll moves s = .next t → t.Inv ∧ t.params = s.params

/-- Reset leaves the values of the spec's reset table, the 80 font bytes among them (decisions D16 to D20; log entries
2, 4, 5, 6) (10_state.md section 10, 92_eei_decisions.md D16-D20, notes/assumptions/2.md, notes/assumptions/4.md,
notes/assumptions/5.md, notes/assumptions/6.md). -/
def Obligations.ResetValues : Prop :=
  (∀ j : RegIx, State.reset.getV j = 0#8) ∧ State.reset.i = 0#16 ∧ State.reset.pc = 0x200#16 ∧
  (∀ (j : Nat) (h : j < 16), State.reset.stack[j]'h = 0#16) ∧ State.reset.sp.val = 0 ∧
  State.reset.dt = 0#8 ∧ State.reset.st = 0#8 ∧ (∀ px py, State.reset.pixel px py = false) ∧
  (∀ k : RegIx, State.reset.key k = false) ∧ State.reset.mode = .running ∧
  (∀ a : Nat, 80 ≤ a → State.reset.mem.read a = 0#8) ∧ State.reset.params.fontBase.val = 0 ∧
  State.reset.mem.readBytes 0 80 =
    [0xF0#8, 0x90#8, 0x90#8, 0x90#8, 0xF0#8] ++ [0x20#8, 0x60#8, 0x20#8, 0x20#8, 0x70#8] ++
    [0xF0#8, 0x10#8, 0xF0#8, 0x80#8, 0xF0#8] ++ [0xF0#8, 0x10#8, 0xF0#8, 0x10#8, 0xF0#8] ++
    [0x90#8, 0x90#8, 0xF0#8, 0x10#8, 0x10#8] ++ [0xF0#8, 0x80#8, 0xF0#8, 0x10#8, 0xF0#8] ++
    [0xF0#8, 0x80#8, 0xF0#8, 0x90#8, 0xF0#8] ++ [0xF0#8, 0x10#8, 0x20#8, 0x40#8, 0x40#8] ++
    [0xF0#8, 0x90#8, 0xF0#8, 0x90#8, 0xF0#8] ++ [0xF0#8, 0x90#8, 0xF0#8, 0x10#8, 0xF0#8] ++
    [0xF0#8, 0x90#8, 0xF0#8, 0x90#8, 0x90#8] ++ [0xE0#8, 0x90#8, 0xE0#8, 0x90#8, 0xE0#8] ++
    [0xF0#8, 0x80#8, 0x80#8, 0x80#8, 0xF0#8] ++ [0xE0#8, 0x90#8, 0x90#8, 0x90#8, 0xE0#8] ++
    [0xF0#8, 0x80#8, 0xF0#8, 0x80#8, 0xF0#8] ++ [0xF0#8, 0x80#8, 0xF0#8, 0x80#8, 0x80#8]

/-- Boot lays out font at FONT_BASE, program at 0x200, 0 elsewhere, and runs (decisions D16 to D20; no events, draws
kept: log entries 2, 7, 10) (70_reset_and_hazards.md R292, 10_state.md section 10, 92_eei_decisions.md D16-D20,
notes/assumptions/2.md, notes/assumptions/6.md, notes/assumptions/7.md, notes/assumptions/10.md). -/
def Obligations.BootLaysOutMemory : Prop :=
  ∀ (init : State) (p : Params) (font program : List Byte) (entry : Word),
    font.length = 80 → program.length ≤ 0xE00 →
    ∃ t, boot init p font program entry = .next t ∧ t.pc = entry ∧ t.mode = .running ∧ t.sp.val = 0 ∧
      t.params = p ∧ t.events = [] ∧
      (∀ (j : Nat) (h : j < font.length), t.mem.read (p.fontBase.val + j) = font[j]'h) ∧
      (∀ (j : Nat) (h : j < program.length), t.mem.read (0x200 + j) = program[j]'h) ∧
      (∀ a : Nat, a < 0x1000 → (a < p.fontBase.val ∨ p.fontBase.val + 80 ≤ a) →
        (a < 0x200 ∨ 0x200 + program.length ≤ a) → t.mem.read a = 0#8) ∧
      (entry.toNat ≤ 0x10FE → t.Inv) ∧ SameExcept [.mem, .pc, .sp, .mode, .events, .params] init t

/-- A machine idle at a self-jump stays exactly as it is (definition of idle: decision D36) (70_reset_and_hazards.md,
92_eei_decisions.md D36). -/
def Obligations.IdleIsAFixedPoint : Prop :=
  ∀ (s : State) (l : Addr), s.idleAt l → step s = .next s
end

