-- ==== Sys2Proof/Laws/Decode.lean ====
section
/-! SUPPORT. The fields of an encoded word, and that a word is made of its fields. Everything is computed on the numbers
that the bits stand for. -/

namespace Sys2Proof

/-- Two bit vectors side by side, as a number. -/
theorem toNat_append_eq {m n : Nat} (x : BitVec m) (y : BitVec n) : (x ++ y).toNat = x.toNat * 2 ^ n + y.toNat := by
  rw [BitVec.toNat_append, ← Nat.shiftLeft_add_eq_or_of_lt y.isLt, Nat.shiftLeft_eq]

/-! ### The numbers of fields and words (30_encoding.md R81) -/

theorem fieldFamily_toNat (op : Word) : (fieldFamily op).toNat = op.toNat / 4096 := by
  have := op.isLt
  simp [fieldFamily, BitVec.extractLsb'_toNat, Nat.shiftRight_eq_div_pow]
  omega

theorem fieldX_toNat (op : Word) : (fieldX op).toNat = op.toNat / 256 % 16 := by
  simp [fieldX, BitVec.extractLsb'_toNat, Nat.shiftRight_eq_div_pow]

theorem fieldY_toNat (op : Word) : (fieldY op).toNat = op.toNat / 16 % 16 := by
  simp [fieldY, BitVec.extractLsb'_toNat, Nat.shiftRight_eq_div_pow]

theorem fieldN_toNat (op : Word) : (fieldN op).toNat = op.toNat % 16 := by
  simp [fieldN, BitVec.extractLsb'_toNat]

theorem fieldKk_toNat (op : Word) : (fieldKk op).toNat = op.toNat % 256 := by
  simp [fieldKk, BitVec.extractLsb'_toNat]

theorem fieldNnn_toNat (op : Word) : (fieldNnn op).toNat = op.toNat % 4096 := by
  simp [fieldNnn, BitVec.extractLsb'_toNat]

theorem wordNnn_toNat (f : Nibble) (a : Addr) : (wordNnn f a).toNat = f.toNat * 4096 + a.toNat :=
  toNat_append_eq f a

theorem wordXKk_toNat (f : Nibble) (x : RegIx) (k : Byte) :
    (wordXKk f x k).toNat = f.toNat * 4096 + x.toNat * 256 + k.toNat := by
  have h1 : (wordXKk f x k).toNat = f.toNat * 2 ^ 12 + (x ++ k).toNat := toNat_append_eq f (x ++ k)
  rw [h1, toNat_append_eq]
  omega

theorem wordXYN_toNat (f : Nibble) (x y : RegIx) (n : Nibble) :
    (wordXYN f x y n).toNat = f.toNat * 4096 + x.toNat * 256 + y.toNat * 16 + n.toNat := by
  have h1 : (wordXYN f x y n).toNat = f.toNat * 2 ^ 12 + (x ++ (y ++ n)).toNat := toNat_append_eq f (x ++ (y ++ n))
  have h2 : (x ++ (y ++ n)).toNat = x.toNat * 2 ^ 8 + (y ++ n).toNat := toNat_append_eq x (y ++ n)
  rw [h1, h2, toNat_append_eq]
  omega

/-! ### Fields of the three word forms -/

section Fields

variable (f : Nibble) (a : Addr) (x y : RegIx) (k : Byte) (n : Nibble)

@[simp] theorem fieldFamily_wordNnn : fieldFamily (wordNnn f a) = f := by
  have := a.isLt
  apply BitVec.eq_of_toNat_eq
  rw [fieldFamily_toNat, wordNnn_toNat]; omega

@[simp] theorem fieldNnn_wordNnn : fieldNnn (wordNnn f a) = a := by
  have := a.isLt
  apply BitVec.eq_of_toNat_eq
  rw [fieldNnn_toNat, wordNnn_toNat]; omega

@[simp] theorem fieldKk_wordNnn : fieldKk (wordNnn f a) = a.setWidth 8 := by
  apply BitVec.eq_of_toNat_eq
  rw [fieldKk_toNat, wordNnn_toNat, BitVec.toNat_setWidth]; omega

theorem fieldX_wordNnn_toNat : (fieldX (wordNnn f a)).toNat = a.toNat / 256 := by
  have := a.isLt
  rw [fieldX_toNat, wordNnn_toNat]; omega

@[simp] theorem fieldFamily_wordXKk : fieldFamily (wordXKk f x k) = f := by
  have := x.isLt; have := k.isLt
  apply BitVec.eq_of_toNat_eq
  rw [fieldFamily_toNat, wordXKk_toNat]; omega

@[simp] theorem fieldX_wordXKk : fieldX (wordXKk f x k) = x := by
  have := x.isLt; have := k.isLt
  apply BitVec.eq_of_toNat_eq
  rw [fieldX_toNat, wordXKk_toNat]; omega

@[simp] theorem fieldKk_wordXKk : fieldKk (wordXKk f x k) = k := by
  have := k.isLt
  apply BitVec.eq_of_toNat_eq
  rw [fieldKk_toNat, wordXKk_toNat]; omega

@[simp] theorem fieldFamily_wordXYN : fieldFamily (wordXYN f x y n) = f := by
  have := x.isLt; have := y.isLt; have := n.isLt
  apply BitVec.eq_of_toNat_eq
  rw [fieldFamily_toNat, wordXYN_toNat]; omega

@[simp] theorem fieldX_wordXYN : fieldX (wordXYN f x y n) = x := by
  have := x.isLt; have := y.isLt; have := n.isLt
  apply BitVec.eq_of_toNat_eq
  rw [fieldX_toNat, wordXYN_toNat]; omega

@[simp] theorem fieldY_wordXYN : fieldY (wordXYN f x y n) = y := by
  have := y.isLt; have := n.isLt
  apply BitVec.eq_of_toNat_eq
  rw [fieldY_toNat, wordXYN_toNat]; omega

@[simp] theorem fieldN_wordXYN : fieldN (wordXYN f x y n) = n := by
  have := n.isLt
  apply BitVec.eq_of_toNat_eq
  rw [fieldN_toNat, wordXYN_toNat]; omega

end Fields

/-! ### A word is made of its fields -/

theorem wordNnn_fields (op : Word) : wordNnn (fieldFamily op) (fieldNnn op) = op := by
  apply BitVec.eq_of_toNat_eq
  rw [wordNnn_toNat, fieldFamily_toNat, fieldNnn_toNat]; omega

theorem wordXKk_fields (op : Word) : wordXKk (fieldFamily op) (fieldX op) (fieldKk op) = op := by
  apply BitVec.eq_of_toNat_eq
  rw [wordXKk_toNat, fieldFamily_toNat, fieldX_toNat, fieldKk_toNat]; omega

theorem wordXYN_fields (op : Word) : wordXYN (fieldFamily op) (fieldX op) (fieldY op) (fieldN op) = op := by
  apply BitVec.eq_of_toNat_eq
  rw [wordXYN_toNat, fieldFamily_toNat, fieldX_toNat, fieldY_toNat, fieldN_toNat]; omega

/-- A word is determined by the fields of one form. -/
theorem eq_wordNnn_of_fields {op : Word} {f : Nibble} {a : Addr} (h1 : fieldFamily op = f) (h2 : fieldNnn op = a) :
    wordNnn f a = op := by rw [← h1, ← h2, wordNnn_fields]

theorem eq_wordXKk_of_fields {op : Word} {f : Nibble} {x : RegIx} {k : Byte} (h1 : fieldFamily op = f)
    (h2 : fieldX op = x) (h3 : fieldKk op = k) : wordXKk f x k = op := by rw [← h1, ← h2, ← h3, wordXKk_fields]

theorem eq_wordXYN_of_fields {op : Word} {f : Nibble} {x y : RegIx} {n : Nibble} (h1 : fieldFamily op = f)
    (h2 : fieldX op = x) (h3 : fieldY op = y) (h4 : fieldN op = n) : wordXYN f x y n = op := by
  rw [← h1, ← h2, ← h3, ← h4, wordXYN_fields]

/-! ### Bytes of a word (20_memory.md R52) -/

/-- The first byte is the high half of the opcode. -/
theorem wordOfBytes_toNat (hi lo : Byte) : (wordOfBytes hi lo).toNat = hi.toNat * 256 + lo.toNat :=
  toNat_append_eq hi lo

/-- The opcode as the cycle forms it: the first byte times 256 plus the second. -/
theorem wordOfBytes_eq_ofNat (hi lo : Byte) : wordOfBytes hi lo = BitVec.ofNat 16 (hi.toNat * 256 + lo.toNat) := by
  rw [← wordOfBytes_toNat, BitVec.ofNat_toNat, BitVec.setWidth_eq]

@[simp] theorem wordOfBytes_bytes (op : Word) : wordOfBytes (highByte op) (Sys2Proof.lowByte op) = op := by
  have := op.isLt
  apply BitVec.eq_of_toNat_eq
  rw [wordOfBytes_toNat]
  simp [highByte, Sys2Proof.lowByte, BitVec.extractLsb'_toNat, Nat.shiftRight_eq_div_pow]
  omega

end Sys2Proof
end

