-- ==== Sys2Proof/Laws/State.lean ====
section
/-! SUPPORT. For each update of the state, what each field is after it: true by unfolding the update once, so that no
later proof unfolds a record. -/

namespace Sys2Proof.Machine

variable (s : State)

/-! `setV` -/

@[simp] theorem State.setV_v (x : RegIx) (b : Byte) : (s.setV x b).v = s.v.set x.toNat b x.isLt := rfl
@[simp] theorem State.setV_i (x : RegIx) (b : Byte) : (s.setV x b).i = s.i := rfl
@[simp] theorem State.setV_pc (x : RegIx) (b : Byte) : (s.setV x b).pc = s.pc := rfl
@[simp] theorem State.setV_stack (x : RegIx) (b : Byte) : (s.setV x b).stack = s.stack := rfl
@[simp] theorem State.setV_sp (x : RegIx) (b : Byte) : (s.setV x b).sp = s.sp := rfl
@[simp] theorem State.setV_dt (x : RegIx) (b : Byte) : (s.setV x b).dt = s.dt := rfl
@[simp] theorem State.setV_st (x : RegIx) (b : Byte) : (s.setV x b).st = s.st := rfl
@[simp] theorem State.setV_display (x : RegIx) (b : Byte) : (s.setV x b).display = s.display := rfl
@[simp] theorem State.setV_keys (x : RegIx) (b : Byte) : (s.setV x b).keys = s.keys := rfl
@[simp] theorem State.setV_mode (x : RegIx) (b : Byte) : (s.setV x b).mode = s.mode := rfl
@[simp] theorem State.setV_mem (x : RegIx) (b : Byte) : (s.setV x b).mem = s.mem := rfl
@[simp] theorem State.setV_events (x : RegIx) (b : Byte) : (s.setV x b).events = s.events := rfl
@[simp] theorem State.setV_draws (x : RegIx) (b : Byte) : (s.setV x b).draws = s.draws := rfl
@[simp] theorem State.setV_params (x : RegIx) (b : Byte) : (s.setV x b).params = s.params := rfl

/-! `setI` -/

@[simp] theorem State.setI_v (w : Word) : (s.setI w).v = s.v := rfl
@[simp] theorem State.setI_i (w : Word) : (s.setI w).i = w := rfl
@[simp] theorem State.setI_pc (w : Word) : (s.setI w).pc = s.pc := rfl
@[simp] theorem State.setI_stack (w : Word) : (s.setI w).stack = s.stack := rfl
@[simp] theorem State.setI_sp (w : Word) : (s.setI w).sp = s.sp := rfl
@[simp] theorem State.setI_dt (w : Word) : (s.setI w).dt = s.dt := rfl
@[simp] theorem State.setI_st (w : Word) : (s.setI w).st = s.st := rfl
@[simp] theorem State.setI_display (w : Word) : (s.setI w).display = s.display := rfl
@[simp] theorem State.setI_keys (w : Word) : (s.setI w).keys = s.keys := rfl
@[simp] theorem State.setI_mode (w : Word) : (s.setI w).mode = s.mode := rfl
@[simp] theorem State.setI_mem (w : Word) : (s.setI w).mem = s.mem := rfl
@[simp] theorem State.setI_events (w : Word) : (s.setI w).events = s.events := rfl
@[simp] theorem State.setI_draws (w : Word) : (s.setI w).draws = s.draws := rfl
@[simp] theorem State.setI_params (w : Word) : (s.setI w).params = s.params := rfl

/-! `setPc` -/

@[simp] theorem State.setPc_v (w : Word) : (s.setPc w).v = s.v := rfl
@[simp] theorem State.setPc_i (w : Word) : (s.setPc w).i = s.i := rfl
@[simp] theorem State.setPc_pc (w : Word) : (s.setPc w).pc = w := rfl
@[simp] theorem State.setPc_stack (w : Word) : (s.setPc w).stack = s.stack := rfl
@[simp] theorem State.setPc_sp (w : Word) : (s.setPc w).sp = s.sp := rfl
@[simp] theorem State.setPc_dt (w : Word) : (s.setPc w).dt = s.dt := rfl
@[simp] theorem State.setPc_st (w : Word) : (s.setPc w).st = s.st := rfl
@[simp] theorem State.setPc_display (w : Word) : (s.setPc w).display = s.display := rfl
@[simp] theorem State.setPc_keys (w : Word) : (s.setPc w).keys = s.keys := rfl
@[simp] theorem State.setPc_mode (w : Word) : (s.setPc w).mode = s.mode := rfl
@[simp] theorem State.setPc_mem (w : Word) : (s.setPc w).mem = s.mem := rfl
@[simp] theorem State.setPc_events (w : Word) : (s.setPc w).events = s.events := rfl
@[simp] theorem State.setPc_draws (w : Word) : (s.setPc w).draws = s.draws := rfl
@[simp] theorem State.setPc_params (w : Word) : (s.setPc w).params = s.params := rfl

/-! `setDt` -/

@[simp] theorem State.setDt_v (b : Byte) : (s.setDt b).v = s.v := rfl
@[simp] theorem State.setDt_i (b : Byte) : (s.setDt b).i = s.i := rfl
@[simp] theorem State.setDt_pc (b : Byte) : (s.setDt b).pc = s.pc := rfl
@[simp] theorem State.setDt_stack (b : Byte) : (s.setDt b).stack = s.stack := rfl
@[simp] theorem State.setDt_sp (b : Byte) : (s.setDt b).sp = s.sp := rfl
@[simp] theorem State.setDt_dt (b : Byte) : (s.setDt b).dt = b := rfl
@[simp] theorem State.setDt_st (b : Byte) : (s.setDt b).st = s.st := rfl
@[simp] theorem State.setDt_display (b : Byte) : (s.setDt b).display = s.display := rfl
@[simp] theorem State.setDt_keys (b : Byte) : (s.setDt b).keys = s.keys := rfl
@[simp] theorem State.setDt_mode (b : Byte) : (s.setDt b).mode = s.mode := rfl
@[simp] theorem State.setDt_mem (b : Byte) : (s.setDt b).mem = s.mem := rfl
@[simp] theorem State.setDt_events (b : Byte) : (s.setDt b).events = s.events := rfl
@[simp] theorem State.setDt_draws (b : Byte) : (s.setDt b).draws = s.draws := rfl
@[simp] theorem State.setDt_params (b : Byte) : (s.setDt b).params = s.params := rfl

/-! `setSt` -/

@[simp] theorem State.setSt_v (b : Byte) : (s.setSt b).v = s.v := rfl
@[simp] theorem State.setSt_i (b : Byte) : (s.setSt b).i = s.i := rfl
@[simp] theorem State.setSt_pc (b : Byte) : (s.setSt b).pc = s.pc := rfl
@[simp] theorem State.setSt_stack (b : Byte) : (s.setSt b).stack = s.stack := rfl
@[simp] theorem State.setSt_sp (b : Byte) : (s.setSt b).sp = s.sp := rfl
@[simp] theorem State.setSt_dt (b : Byte) : (s.setSt b).dt = s.dt := rfl
@[simp] theorem State.setSt_st (b : Byte) : (s.setSt b).st = b := rfl
@[simp] theorem State.setSt_display (b : Byte) : (s.setSt b).display = s.display := rfl
@[simp] theorem State.setSt_keys (b : Byte) : (s.setSt b).keys = s.keys := rfl
@[simp] theorem State.setSt_mode (b : Byte) : (s.setSt b).mode = s.mode := rfl
@[simp] theorem State.setSt_mem (b : Byte) : (s.setSt b).mem = s.mem := rfl
@[simp] theorem State.setSt_events (b : Byte) : (s.setSt b).events = s.events := rfl
@[simp] theorem State.setSt_draws (b : Byte) : (s.setSt b).draws = s.draws := rfl
@[simp] theorem State.setSt_params (b : Byte) : (s.setSt b).params = s.params := rfl

/-! `setMode` -/

@[simp] theorem State.setMode_v (m : Mode) : (s.setMode m).v = s.v := rfl
@[simp] theorem State.setMode_i (m : Mode) : (s.setMode m).i = s.i := rfl
@[simp] theorem State.setMode_pc (m : Mode) : (s.setMode m).pc = s.pc := rfl
@[simp] theorem State.setMode_stack (m : Mode) : (s.setMode m).stack = s.stack := rfl
@[simp] theorem State.setMode_sp (m : Mode) : (s.setMode m).sp = s.sp := rfl
@[simp] theorem State.setMode_dt (m : Mode) : (s.setMode m).dt = s.dt := rfl
@[simp] theorem State.setMode_st (m : Mode) : (s.setMode m).st = s.st := rfl
@[simp] theorem State.setMode_display (m : Mode) : (s.setMode m).display = s.display := rfl
@[simp] theorem State.setMode_keys (m : Mode) : (s.setMode m).keys = s.keys := rfl
@[simp] theorem State.setMode_mode (m : Mode) : (s.setMode m).mode = m := rfl
@[simp] theorem State.setMode_mem (m : Mode) : (s.setMode m).mem = s.mem := rfl
@[simp] theorem State.setMode_events (m : Mode) : (s.setMode m).events = s.events := rfl
@[simp] theorem State.setMode_draws (m : Mode) : (s.setMode m).draws = s.draws := rfl
@[simp] theorem State.setMode_params (m : Mode) : (s.setMode m).params = s.params := rfl

/-! `emit` -/

@[simp] theorem State.emit_v (e : Event) : (s.emit e).v = s.v := rfl
@[simp] theorem State.emit_i (e : Event) : (s.emit e).i = s.i := rfl
@[simp] theorem State.emit_pc (e : Event) : (s.emit e).pc = s.pc := rfl
@[simp] theorem State.emit_stack (e : Event) : (s.emit e).stack = s.stack := rfl
@[simp] theorem State.emit_sp (e : Event) : (s.emit e).sp = s.sp := rfl
@[simp] theorem State.emit_dt (e : Event) : (s.emit e).dt = s.dt := rfl
@[simp] theorem State.emit_st (e : Event) : (s.emit e).st = s.st := rfl
@[simp] theorem State.emit_display (e : Event) : (s.emit e).display = s.display := rfl
@[simp] theorem State.emit_keys (e : Event) : (s.emit e).keys = s.keys := rfl
@[simp] theorem State.emit_mode (e : Event) : (s.emit e).mode = s.mode := rfl
@[simp] theorem State.emit_mem (e : Event) : (s.emit e).mem = s.mem := rfl
@[simp] theorem State.emit_events (e : Event) : (s.emit e).events = s.events ++ [e] := rfl
@[simp] theorem State.emit_draws (e : Event) : (s.emit e).draws = s.draws := rfl
@[simp] theorem State.emit_params (e : Event) : (s.emit e).params = s.params := rfl

/-! `advancePc` -/

@[simp] theorem State.advancePc_v : s.advancePc.v = s.v := rfl
@[simp] theorem State.advancePc_i : s.advancePc.i = s.i := rfl
@[simp] theorem State.advancePc_pc : s.advancePc.pc = s.pc + 2#16 := rfl
@[simp] theorem State.advancePc_stack : s.advancePc.stack = s.stack := rfl
@[simp] theorem State.advancePc_sp : s.advancePc.sp = s.sp := rfl
@[simp] theorem State.advancePc_dt : s.advancePc.dt = s.dt := rfl
@[simp] theorem State.advancePc_st : s.advancePc.st = s.st := rfl
@[simp] theorem State.advancePc_display : s.advancePc.display = s.display := rfl
@[simp] theorem State.advancePc_keys : s.advancePc.keys = s.keys := rfl
@[simp] theorem State.advancePc_mode : s.advancePc.mode = s.mode := rfl
@[simp] theorem State.advancePc_mem : s.advancePc.mem = s.mem := rfl
@[simp] theorem State.advancePc_events : s.advancePc.events = s.events := rfl
@[simp] theorem State.advancePc_draws : s.advancePc.draws = s.draws := rfl
@[simp] theorem State.advancePc_params : s.advancePc.params = s.params := rfl

/-! `countDraw` -/

@[simp] theorem State.countDraw_v : s.countDraw.v = s.v := rfl
@[simp] theorem State.countDraw_i : s.countDraw.i = s.i := rfl
@[simp] theorem State.countDraw_pc : s.countDraw.pc = s.pc := rfl
@[simp] theorem State.countDraw_stack : s.countDraw.stack = s.stack := rfl
@[simp] theorem State.countDraw_sp : s.countDraw.sp = s.sp := rfl
@[simp] theorem State.countDraw_dt : s.countDraw.dt = s.dt := rfl
@[simp] theorem State.countDraw_st : s.countDraw.st = s.st := rfl
@[simp] theorem State.countDraw_display : s.countDraw.display = s.display := rfl
@[simp] theorem State.countDraw_keys : s.countDraw.keys = s.keys := rfl
@[simp] theorem State.countDraw_mode : s.countDraw.mode = s.mode := rfl
@[simp] theorem State.countDraw_mem : s.countDraw.mem = s.mem := rfl
@[simp] theorem State.countDraw_events : s.countDraw.events = s.events := rfl
@[simp] theorem State.countDraw_draws : s.countDraw.draws = s.draws + 1 := rfl
@[simp] theorem State.countDraw_params : s.countDraw.params = s.params := rfl

/-! `storeBytes` -/

@[simp] theorem State.storeBytes_v (a : Nat) (bs : List Byte) : (s.storeBytes a bs).v = s.v := rfl
@[simp] theorem State.storeBytes_i (a : Nat) (bs : List Byte) : (s.storeBytes a bs).i = s.i := rfl
@[simp] theorem State.storeBytes_pc (a : Nat) (bs : List Byte) : (s.storeBytes a bs).pc = s.pc := rfl
@[simp] theorem State.storeBytes_stack (a : Nat) (bs : List Byte) : (s.storeBytes a bs).stack = s.stack := rfl
@[simp] theorem State.storeBytes_sp (a : Nat) (bs : List Byte) : (s.storeBytes a bs).sp = s.sp := rfl
@[simp] theorem State.storeBytes_dt (a : Nat) (bs : List Byte) : (s.storeBytes a bs).dt = s.dt := rfl
@[simp] theorem State.storeBytes_st (a : Nat) (bs : List Byte) : (s.storeBytes a bs).st = s.st := rfl
@[simp] theorem State.storeBytes_display (a : Nat) (bs : List Byte) : (s.storeBytes a bs).display = s.display := rfl
@[simp] theorem State.storeBytes_keys (a : Nat) (bs : List Byte) : (s.storeBytes a bs).keys = s.keys := rfl
@[simp] theorem State.storeBytes_mode (a : Nat) (bs : List Byte) : (s.storeBytes a bs).mode = s.mode := rfl
@[simp] theorem State.storeBytes_mem (a : Nat) (bs : List Byte) : (s.storeBytes a bs).mem = s.mem.writeBytes a bs := rfl
@[simp] theorem State.storeBytes_events (a : Nat) (bs : List Byte) : (s.storeBytes a bs).events = s.events := rfl
@[simp] theorem State.storeBytes_draws (a : Nat) (bs : List Byte) : (s.storeBytes a bs).draws = s.draws := rfl
@[simp] theorem State.storeBytes_params (a : Nat) (bs : List Byte) : (s.storeBytes a bs).params = s.params := rfl

/-! `loadRegs` -/

@[simp] theorem State.loadRegs_i (a : Nat) (x : RegIx) : (s.loadRegs a x).i = s.i := rfl
@[simp] theorem State.loadRegs_pc (a : Nat) (x : RegIx) : (s.loadRegs a x).pc = s.pc := rfl
@[simp] theorem State.loadRegs_stack (a : Nat) (x : RegIx) : (s.loadRegs a x).stack = s.stack := rfl
@[simp] theorem State.loadRegs_sp (a : Nat) (x : RegIx) : (s.loadRegs a x).sp = s.sp := rfl
@[simp] theorem State.loadRegs_dt (a : Nat) (x : RegIx) : (s.loadRegs a x).dt = s.dt := rfl
@[simp] theorem State.loadRegs_st (a : Nat) (x : RegIx) : (s.loadRegs a x).st = s.st := rfl
@[simp] theorem State.loadRegs_display (a : Nat) (x : RegIx) : (s.loadRegs a x).display = s.display := rfl
@[simp] theorem State.loadRegs_keys (a : Nat) (x : RegIx) : (s.loadRegs a x).keys = s.keys := rfl
@[simp] theorem State.loadRegs_mode (a : Nat) (x : RegIx) : (s.loadRegs a x).mode = s.mode := rfl
@[simp] theorem State.loadRegs_mem (a : Nat) (x : RegIx) : (s.loadRegs a x).mem = s.mem := rfl
@[simp] theorem State.loadRegs_events (a : Nat) (x : RegIx) : (s.loadRegs a x).events = s.events := rfl
@[simp] theorem State.loadRegs_draws (a : Nat) (x : RegIx) : (s.loadRegs a x).draws = s.draws := rfl
@[simp] theorem State.loadRegs_params (a : Nat) (x : RegIx) : (s.loadRegs a x).params = s.params := rfl

/-! `setKeyState` -/

@[simp] theorem State.setKeyState_v (k : RegIx) (b : Bool) : (s.setKeyState k b).v = s.v := rfl
@[simp] theorem State.setKeyState_i (k : RegIx) (b : Bool) : (s.setKeyState k b).i = s.i := rfl
@[simp] theorem State.setKeyState_pc (k : RegIx) (b : Bool) : (s.setKeyState k b).pc = s.pc := rfl
@[simp] theorem State.setKeyState_stack (k : RegIx) (b : Bool) : (s.setKeyState k b).stack = s.stack := rfl
@[simp] theorem State.setKeyState_sp (k : RegIx) (b : Bool) : (s.setKeyState k b).sp = s.sp := rfl
@[simp] theorem State.setKeyState_dt (k : RegIx) (b : Bool) : (s.setKeyState k b).dt = s.dt := rfl
@[simp] theorem State.setKeyState_st (k : RegIx) (b : Bool) : (s.setKeyState k b).st = s.st := rfl
@[simp] theorem State.setKeyState_display (k : RegIx) (b : Bool) : (s.setKeyState k b).display = s.display := rfl
@[simp] theorem State.setKeyState_keys (k : RegIx) (b : Bool) : (s.setKeyState k b).keys = s.keys.set k.toNat b k.isLt := rfl
@[simp] theorem State.setKeyState_mode (k : RegIx) (b : Bool) : (s.setKeyState k b).mode = s.mode := rfl
@[simp] theorem State.setKeyState_mem (k : RegIx) (b : Bool) : (s.setKeyState k b).mem = s.mem := rfl
@[simp] theorem State.setKeyState_events (k : RegIx) (b : Bool) : (s.setKeyState k b).events = s.events := rfl
@[simp] theorem State.setKeyState_draws (k : RegIx) (b : Bool) : (s.setKeyState k b).draws = s.draws := rfl
@[simp] theorem State.setKeyState_params (k : RegIx) (b : Bool) : (s.setKeyState k b).params = s.params := rfl

/-! `drawAt` -/

@[simp] theorem State.drawAt_i (ps : List (Fin 64 × Fin 32)) : (s.drawAt ps).i = s.i := rfl
@[simp] theorem State.drawAt_pc (ps : List (Fin 64 × Fin 32)) : (s.drawAt ps).pc = s.pc := rfl
@[simp] theorem State.drawAt_stack (ps : List (Fin 64 × Fin 32)) : (s.drawAt ps).stack = s.stack := rfl
@[simp] theorem State.drawAt_sp (ps : List (Fin 64 × Fin 32)) : (s.drawAt ps).sp = s.sp := rfl
@[simp] theorem State.drawAt_dt (ps : List (Fin 64 × Fin 32)) : (s.drawAt ps).dt = s.dt := rfl
@[simp] theorem State.drawAt_st (ps : List (Fin 64 × Fin 32)) : (s.drawAt ps).st = s.st := rfl
@[simp] theorem State.drawAt_display (ps : List (Fin 64 × Fin 32)) : (s.drawAt ps).display = (drawPixels s.display ps).1 := rfl
@[simp] theorem State.drawAt_keys (ps : List (Fin 64 × Fin 32)) : (s.drawAt ps).keys = s.keys := rfl
@[simp] theorem State.drawAt_mode (ps : List (Fin 64 × Fin 32)) : (s.drawAt ps).mode = s.mode := rfl
@[simp] theorem State.drawAt_mem (ps : List (Fin 64 × Fin 32)) : (s.drawAt ps).mem = s.mem := rfl
@[simp] theorem State.drawAt_events (ps : List (Fin 64 × Fin 32)) : (s.drawAt ps).events = s.events ++ [.displayChanged] := rfl
@[simp] theorem State.drawAt_draws (ps : List (Fin 64 × Fin 32)) : (s.drawAt ps).draws = s.draws := rfl
@[simp] theorem State.drawAt_params (ps : List (Fin 64 × Fin 32)) : (s.drawAt ps).params = s.params := rfl

/-! `skipIf` -/

@[simp] theorem State.skipIf_v (b : Bool) : (s.skipIf b).v = s.v := by cases b <;> rfl
@[simp] theorem State.skipIf_i (b : Bool) : (s.skipIf b).i = s.i := by cases b <;> rfl
@[simp] theorem State.skipIf_pc (b : Bool) : (s.skipIf b).pc = if b then s.pc + 2#16 else s.pc := by cases b <;> rfl
@[simp] theorem State.skipIf_stack (b : Bool) : (s.skipIf b).stack = s.stack := by cases b <;> rfl
@[simp] theorem State.skipIf_sp (b : Bool) : (s.skipIf b).sp = s.sp := by cases b <;> rfl
@[simp] theorem State.skipIf_dt (b : Bool) : (s.skipIf b).dt = s.dt := by cases b <;> rfl
@[simp] theorem State.skipIf_st (b : Bool) : (s.skipIf b).st = s.st := by cases b <;> rfl
@[simp] theorem State.skipIf_display (b : Bool) : (s.skipIf b).display = s.display := by cases b <;> rfl
@[simp] theorem State.skipIf_keys (b : Bool) : (s.skipIf b).keys = s.keys := by cases b <;> rfl
@[simp] theorem State.skipIf_mode (b : Bool) : (s.skipIf b).mode = s.mode := by cases b <;> rfl
@[simp] theorem State.skipIf_mem (b : Bool) : (s.skipIf b).mem = s.mem := by cases b <;> rfl
@[simp] theorem State.skipIf_events (b : Bool) : (s.skipIf b).events = s.events := by cases b <;> rfl
@[simp] theorem State.skipIf_draws (b : Bool) : (s.skipIf b).draws = s.draws := by cases b <;> rfl
@[simp] theorem State.skipIf_params (b : Bool) : (s.skipIf b).params = s.params := by cases b <;> rfl

/-! `writeWithFlag` writes registers only. -/

@[simp] theorem State.writeWithFlag_i (x : RegIx) (r g : Byte) : (s.writeWithFlag x r g).i = s.i := by
  unfold State.writeWithFlag; split <;> rfl
@[simp] theorem State.writeWithFlag_pc (x : RegIx) (r g : Byte) : (s.writeWithFlag x r g).pc = s.pc := by
  unfold State.writeWithFlag; split <;> rfl
@[simp] theorem State.writeWithFlag_stack (x : RegIx) (r g : Byte) : (s.writeWithFlag x r g).stack = s.stack := by
  unfold State.writeWithFlag; split <;> rfl
@[simp] theorem State.writeWithFlag_sp (x : RegIx) (r g : Byte) : (s.writeWithFlag x r g).sp = s.sp := by
  unfold State.writeWithFlag; split <;> rfl
@[simp] theorem State.writeWithFlag_dt (x : RegIx) (r g : Byte) : (s.writeWithFlag x r g).dt = s.dt := by
  unfold State.writeWithFlag; split <;> rfl
@[simp] theorem State.writeWithFlag_st (x : RegIx) (r g : Byte) : (s.writeWithFlag x r g).st = s.st := by
  unfold State.writeWithFlag; split <;> rfl
@[simp] theorem State.writeWithFlag_display (x : RegIx) (r g : Byte) : (s.writeWithFlag x r g).display = s.display := by
  unfold State.writeWithFlag; split <;> rfl
@[simp] theorem State.writeWithFlag_keys (x : RegIx) (r g : Byte) : (s.writeWithFlag x r g).keys = s.keys := by
  unfold State.writeWithFlag; split <;> rfl
@[simp] theorem State.writeWithFlag_mode (x : RegIx) (r g : Byte) : (s.writeWithFlag x r g).mode = s.mode := by
  unfold State.writeWithFlag; split <;> rfl
@[simp] theorem State.writeWithFlag_mem (x : RegIx) (r g : Byte) : (s.writeWithFlag x r g).mem = s.mem := by
  unfold State.writeWithFlag; split <;> rfl
@[simp] theorem State.writeWithFlag_events (x : RegIx) (r g : Byte) : (s.writeWithFlag x r g).events = s.events := by
  unfold State.writeWithFlag; split <;> rfl
@[simp] theorem State.writeWithFlag_draws (x : RegIx) (r g : Byte) : (s.writeWithFlag x r g).draws = s.draws := by
  unfold State.writeWithFlag; split <;> rfl
@[simp] theorem State.writeWithFlag_params (x : RegIx) (r g : Byte) : (s.writeWithFlag x r g).params = s.params := by
  unfold State.writeWithFlag; split <;> rfl

end Sys2Proof.Machine
end

