-- ==== Sys2Proof/Laws/Registers.lean ====
section
/-! SUPPORT. Reading a register or a key after each update. -/

namespace Sys2Proof.Machine

/-- A register read depends on the register file alone. -/
theorem State.getV_eq_of_v_eq {s t : State} (h : t.v = s.v) (j : RegIx) : t.getV j = s.getV j := by
  simp only [State.getV, h]

/-- A key read depends on the key states alone. -/
theorem State.key_eq_of_keys_eq {s t : State} (h : t.keys = s.keys) (k : RegIx) : t.key k = s.key k := by
  simp only [State.key, h]

/-- A pixel read depends on the bitmap alone. -/
theorem State.pixel_eq_of_display_eq {s t : State} (h : t.display = s.display) (px : Fin 64) (py : Fin 32) :
    t.pixel px py = s.pixel px py := by
  simp only [State.pixel, h]

variable (s : State)

theorem State.getV_setV (x j : RegIx) (b : Byte) : (s.setV x b).getV j = if j = x then b else s.getV j := by
  have hx := x.isLt
  have hj := j.isLt
  simp only [State.getV, State.setV, Vector.getElem_set, ← BitVec.toNat_inj]
  simp only [eq_comm]

@[simp] theorem State.getV_setV_self (x : RegIx) (b : Byte) : (s.setV x b).getV x = b := by
  rw [State.getV_setV, if_pos rfl]

theorem State.getV_setV_ne {x j : RegIx} (h : j ≠ x) (b : Byte) : (s.setV x b).getV j = s.getV j := by
  rw [State.getV_setV, if_neg h]

@[simp] theorem State.getV_setI (w : Word) (j : RegIx) : (s.setI w).getV j = s.getV j := rfl
@[simp] theorem State.getV_setPc (w : Word) (j : RegIx) : (s.setPc w).getV j = s.getV j := rfl
@[simp] theorem State.getV_setDt (b : Byte) (j : RegIx) : (s.setDt b).getV j = s.getV j := rfl
@[simp] theorem State.getV_setSt (b : Byte) (j : RegIx) : (s.setSt b).getV j = s.getV j := rfl
@[simp] theorem State.getV_setMode (m : Mode) (j : RegIx) : (s.setMode m).getV j = s.getV j := rfl
@[simp] theorem State.getV_emit (e : Event) (j : RegIx) : (s.emit e).getV j = s.getV j := rfl
@[simp] theorem State.getV_advancePc (j : RegIx) : s.advancePc.getV j = s.getV j := rfl
@[simp] theorem State.getV_countDraw (j : RegIx) : s.countDraw.getV j = s.getV j := rfl
@[simp] theorem State.getV_storeBytes (a : Nat) (bs : List Byte) (j : RegIx) :
    (s.storeBytes a bs).getV j = s.getV j := rfl
@[simp] theorem State.getV_setKeyState (k : RegIx) (b : Bool) (j : RegIx) :
    (s.setKeyState k b).getV j = s.getV j := rfl
@[simp] theorem State.getV_skipIf (b : Bool) (j : RegIx) : (s.skipIf b).getV j = s.getV j :=
  State.getV_eq_of_v_eq (by simp) j

/-- The block load writes `V0` to `V[x]` and no other register. -/
theorem State.getV_loadRegs (a : Nat) (x j : RegIx) :
    (s.loadRegs a x).getV j = if j.toNat ≤ x.toNat then s.mem.read (a + j.toNat) else s.getV j := by
  simp only [State.getV, State.loadRegs, Vector.getElem_ofFn]
  rfl

/-- What a flag instruction leaves in each register. -/
theorem State.getV_writeWithFlag (x j : RegIx) (r g : Byte) :
    (s.writeWithFlag x r g).getV j =
      if j = x ∧ (x ≠ vfIx ∨ s.params.vfOrder = .resultLast) then r
      else if j = vfIx then g else s.getV j := by
  unfold State.writeWithFlag
  cases s.params.vfOrder <;> simp only [State.getV_setV] <;> by_cases h1 : j = x <;> by_cases h2 : j = vfIx <;>
    simp_all

/-- A draw leaves the collision in `VF` and no other register changed. -/
theorem State.getV_drawAt (ps : List (Fin 64 × Fin 32)) (j : RegIx) :
    (s.drawAt ps).getV j = if j = vfIx then flagByte (drawPixels s.display ps).2 else s.getV j := by
  simp only [State.drawAt, State.getV_emit, State.getV_setV]
  rfl

theorem State.key_setKeyState (k j : RegIx) (b : Bool) :
    (s.setKeyState k b).key j = if j = k then b else s.key j := by
  have hx := k.isLt
  have hj := j.isLt
  simp only [State.key, State.setKeyState, Vector.getElem_set, ← BitVec.toNat_inj]
  simp only [eq_comm]

/-- A stored flag is 1 or 0. -/
theorem flagByte_toNat (b : Bool) : (flagByte b).toNat = if b then 1 else 0 := by cases b <;> rfl

@[simp] theorem flagByte_eq_one (b : Bool) : flagByte b = 1#8 ↔ b = true := by cases b <;> decide

@[simp] theorem flagByte_eq_zero (b : Bool) : flagByte b = 0#8 ↔ b = false := by cases b <;> decide

end Sys2Proof.Machine
end

