-- ==== Sys2Proof/Laws/Memory.lean ====
section
/-! SUPPORT. Memory: a read after a write, and that every operation keeps the canonical form. -/

namespace Sys2Proof.Machine

/-! ### Read after write (20_memory.md R62) -/

@[simp] theorem Memory.read_nil (a : Nat) : Memory.read [] a = unlistedByte a := rfl

theorem Memory.read_cons (c : Host.Cell) (m : Memory) (a : Nat) :
    Memory.read (c :: m) a = if c.1 = a then c.2 else Memory.read m a := rfl

theorem Memory.read_erase (m : Memory) (a b : Nat) :
    (m.erase a).read b = if b = a then unlistedByte b else m.read b := by
  induction m with
  | nil => simp [Memory.erase]
  | cons c rest ih =>
    unfold Memory.erase at ih ⊢
    by_cases hc : c.1 = a <;> by_cases hb : b = a <;> simp_all [Memory.read_cons]
    omega

theorem Memory.read_insert {m : Memory} {a : Nat} (v : Byte) (h : ∀ c ∈ m, c.1 ≠ a) (b : Nat) :
    (m.insert a v).read b = if b = a then v else m.read b := by
  induction m with
  | nil => simp [Memory.insert, Memory.read_cons, eq_comm]
  | cons c rest ih =>
    have hc : c.1 ≠ a := h c (by simp)
    have hr := ih fun d hd => h d (by simp [hd])
    unfold Memory.insert
    split
    · simp [Memory.read_cons, eq_comm]
    · rw [Memory.read_cons, hr, Memory.read_cons]
      by_cases hb : b = a <;> simp_all

theorem Memory.erase_ne {m : Memory} {a : Nat} : ∀ c ∈ m.erase a, c.1 ≠ a := by
  intro c hc
  simpa using (List.mem_filter.mp hc).2

/-- A read after a write: the byte written at its address, every other byte as before. -/
theorem Memory.read_write (m : Memory) (a b : Nat) (v : Byte) :
    (m.write a v).read b = if b = a then v else m.read b := by
  unfold Memory.write
  split
  · rename_i h
    rw [Memory.read_erase]
    by_cases hb : b = a <;> simp_all
  · rw [Memory.read_insert v Memory.erase_ne, Memory.read_erase]
    by_cases hb : b = a <;> simp_all

/-- A read after a block write: the byte of the block at its place, every other byte as before. -/
theorem Memory.read_writeBytes (bs : List Byte) : ∀ (m : Memory) (a b : Nat),
    (m.writeBytes a bs).read b = if h : a ≤ b ∧ b - a < bs.length then bs[b - a]'h.2 else m.read b := by
  induction bs with
  | nil => intro m a b; simp [Memory.writeBytes]
  | cons v bs ih =>
    intro m a b
    simp only [Memory.writeBytes, ih, Memory.read_write, List.length_cons]
    by_cases h1 : a + 1 ≤ b ∧ b - (a + 1) < bs.length
    · have h2 : a ≤ b ∧ b - a < bs.length + 1 := by omega
      rw [dif_pos h1, dif_pos h2]
      have h3 : b - a = (b - (a + 1)) + 1 := by omega
      simp [h3]
    · rw [dif_neg h1]
      by_cases hb : b = a
      · subst hb; simp
      · rw [if_neg hb, dif_neg (by omega)]

/-- A block write leaves every byte outside the block as before. -/
theorem Memory.read_writeBytes_outside {m : Memory} {a b : Nat} {bs : List Byte}
    (h : b < a ∨ a + bs.length ≤ b) : (m.writeBytes a bs).read b = m.read b := by
  rw [Memory.read_writeBytes, dif_neg (by omega)]

@[simp] theorem Memory.length_readBytes (m : Memory) (n : Nat) : ∀ a, (m.readBytes a n).length = n := by
  induction n with
  | zero => intro a; rfl
  | succ n ih => intro a; simp [Memory.readBytes, ih]

theorem Memory.getElem_readBytes (m : Memory) (n : Nat) : ∀ (a j : Nat) (h : j < (m.readBytes a n).length),
    (m.readBytes a n)[j] = m.read (a + j) := by
  induction n with
  | zero => intro a j h; simp [Memory.readBytes] at h
  | succ n ih =>
    intro a j h
    cases j with
    | zero => simp [Memory.readBytes]
    | succ j => simp only [Memory.readBytes, List.getElem_cons_succ, ih]; congr 1; omega

/-! ### The canonical form -/

theorem Memory.wf_nil : Memory.wf [] := ⟨List.Pairwise.nil, by simp⟩

theorem Memory.wf_erase {m : Memory} (h : m.wf) (a : Nat) : (m.erase a).wf := by
  refine ⟨h.1.filter _, fun c hc => h.2 c ?_⟩
  exact (List.mem_filter.mp hc).1

theorem Memory.mem_insert {m : Memory} {a : Nat} {v : Byte} {c : Host.Cell} (h : c ∈ m.insert a v) :
    c = (a, v) ∨ c ∈ m := by
  induction m with
  | nil => simpa [Memory.insert] using h
  | cons d rest ih =>
    unfold Memory.insert at h
    split at h
    · simpa using h
    · rcases List.mem_cons.mp h with h | h
      · exact .inr (by simp [h])
      · rcases ih h with h | h
        · exact .inl h
        · exact .inr (by simp [h])

theorem Memory.wf_insert {m : Memory} {a : Nat} {v : Byte} (h : m.wf) (hne : ∀ c ∈ m, c.1 ≠ a) (ha : a < 4096)
    (hv : v ≠ unlistedByte a) : (m.insert a v).wf := by
  constructor
  · induction m with
    | nil => simp [Memory.insert]
    | cons c rest ih =>
      obtain ⟨hs, hall⟩ := h
      rw [List.pairwise_cons] at hs
      have hc : c.1 ≠ a := hne c (by simp)
      have hr := ih ⟨hs.2, fun d hd => hall d (by simp [hd])⟩ fun d hd => hne d (by simp [hd])
      unfold Memory.insert
      split
      · rename_i hlt
        refine List.pairwise_cons.mpr ⟨?_, List.pairwise_cons.mpr hs⟩
        intro d hd
        rcases List.mem_cons.mp hd with rfl | hd
        · exact hlt
        · exact Nat.lt_trans hlt (hs.1 d hd)
      · refine List.pairwise_cons.mpr ⟨?_, hr⟩
        intro d hd
        rcases Memory.mem_insert hd with rfl | hd
        · show c.1 < a; omega
        · exact hs.1 d hd
  · intro c hc
    rcases Memory.mem_insert hc with rfl | hc
    · exact ⟨ha, hv⟩
    · exact h.2 c hc

/-- A write inside the address space keeps the canonical form. -/
theorem Memory.wf_write {m : Memory} (h : m.wf) {a : Nat} (ha : a < 4096) (v : Byte) : (m.write a v).wf := by
  unfold Memory.write
  split
  · exact Memory.wf_erase h a
  · rename_i hv
    exact Memory.wf_insert (Memory.wf_erase h a) Memory.erase_ne ha hv

/-- A block write inside the address space keeps the canonical form. -/
theorem Memory.wf_writeBytes (bs : List Byte) : ∀ {m : Memory} {a : Nat}, m.wf → a + bs.length ≤ 4096 →
    (m.writeBytes a bs).wf := by
  induction bs with
  | nil => intro m a h _; exact h
  | cons v bs ih =>
    intro m a h ha
    simp only [List.length_cons] at ha
    exact ih (Memory.wf_write h (by omega) v) (by omega)

/-- Two canonical memories that read the same are the same list of cells. -/
theorem Memory.eq_of_read_eq : ∀ {m n : Memory}, m.wf → n.wf → (∀ a, m.read a = n.read a) → m = n := by
  have low : ∀ {m : Memory} {a : Nat}, (∀ c ∈ m, a < c.1) → m.read a = unlistedByte a := by
    intro m a h
    induction m with
    | nil => rfl
    | cons c rest ih =>
      have := h c (by simp)
      rw [Memory.read_cons, if_neg (by omega), ih fun d hd => h d (by simp [hd])]
  have listed : ∀ {c : Host.Cell} {m : Memory}, Memory.wf (c :: m) → Memory.read (c :: m) c.1 ≠ unlistedByte c.1 := by
    intro c m h
    rw [Memory.read_cons, if_pos rfl]
    exact (h.2 c (by simp)).2
  have tail : ∀ {c : Host.Cell} {m : Memory}, Memory.wf (c :: m) → m.wf ∧ ∀ d ∈ m, c.1 < d.1 := by
    intro c m h
    have hs := List.pairwise_cons.mp h.1
    exact ⟨⟨hs.2, fun d hd => h.2 d (by simp [hd])⟩, hs.1⟩
  have above : ∀ {c d : Host.Cell} {m : Memory}, Memory.wf (d :: m) → c.1 < d.1 →
      Memory.read (d :: m) c.1 = unlistedByte c.1 := by
    intro c d m h hlt
    refine low fun e he => ?_
    rcases List.mem_cons.mp he with rfl | he
    · exact hlt
    · exact Nat.lt_trans hlt ((tail h).2 e he)
  intro m
  induction m with
  | nil =>
    intro n _ hn h
    cases n with
    | nil => rfl
    | cons c n => exact absurd (h c.1).symm (listed hn)
  | cons c m ih =>
    intro n hm hn h
    cases n with
    | nil => exact absurd (h c.1) (listed hm)
    | cons d n =>
      have hcd : c.1 = d.1 := by
        rcases Nat.lt_trichotomy c.1 d.1 with hlt | heq | hlt
        · exact absurd ((h c.1).trans (above hn hlt)) (listed hm)
        · exact heq
        · exact absurd ((h d.1).symm.trans (above hm hlt)) (listed hn)
      have h2 : c.2 = d.2 := by
        have := h c.1
        rwa [Memory.read_cons, if_pos rfl, Memory.read_cons, if_pos hcd.symm] at this
      have hc : c = d := Prod.ext hcd h2
      subst hc
      congr 1
      refine ih (tail hm).1 (tail hn).1 fun a => ?_
      have := h a
      rw [Memory.read_cons, Memory.read_cons] at this
      by_cases ha : c.1 = a
      · subst ha
        rw [low (tail hm).2, low (tail hn).2]
      · rwa [if_neg ha, if_neg ha] at this

/-! ### The blocks that are stored -/

theorem State.length_regsUpTo (s : State) (x : RegIx) : (s.regsUpTo x).length = blockCount x := by
  have := x.isLt
  simp [State.regsUpTo, blockCount]
  omega

/-- The block stored is `V0`, `V1`, ... in order. -/
theorem State.getElem_regsUpTo (s : State) (x : RegIx) (j : Nat) (h : j < (s.regsUpTo x).length) (hj : j < 16) :
    (s.regsUpTo x)[j] = s.getV (BitVec.ofNat 4 j) := by
  simp [State.regsUpTo, State.getV, Nat.mod_eq_of_lt hj]

@[simp] theorem length_bcdDigits (b : Byte) : (bcdDigits b).length = 3 := rfl

end Sys2Proof.Machine
end

