-- ==== Sys2Proof/Laws/Display.lean ====
section
/-! SUPPORT. The display: inverting one pixel, inverting a list of different pixels, and the pixels a sprite inverts. -/

namespace Sys2Proof.Machine

theorem Display.pixel_flip (d : Display) (px qx : Fin 64) (py qy : Fin 32) :
    (d.flip px py).pixel qx qy = if qx = px ∧ qy = py then !d.pixel qx qy else d.pixel qx qy := by
  simp only [Display.pixel, Display.flip, Fin.getElem_fin, Vector.getElem_set, Fin.ext_iff]
  by_cases hy : py.val = qy.val <;> by_cases hx : px.val = qx.val <;> simp_all [eq_comm]

@[simp] theorem blankDisplay_pixel (px : Fin 64) (py : Fin 32) : blankDisplay.pixel px py = false := by
  simp [Display.pixel, blankDisplay]

/-- The display after a list of pixels has been inverted, from any display and collision so far. -/
theorem foldl_drawPixel {ps : List (Fin 64 × Fin 32)} (hn : ps.Nodup) : ∀ (d : Display) (hit : Bool),
    (∀ px py, (ps.foldl drawPixel (d, hit)).1.pixel px py
        = if (px, py) ∈ ps then !d.pixel px py else d.pixel px py) ∧
      ((ps.foldl drawPixel (d, hit)).2 = true ↔ hit = true ∨ ∃ p ∈ ps, d.pixel p.1 p.2 = true) := by
  induction ps with
  | nil => intro d hit; simp
  | cons p ps ih =>
    intro d hit
    obtain ⟨hp, hn'⟩ := List.nodup_cons.mp hn
    obtain ⟨hd, hc⟩ := ih hn' (d.flip p.1 p.2) (hit || d.pixel p.1 p.2)
    have other : ∀ q ∈ ps, (d.flip p.1 p.2).pixel q.1 q.2 = d.pixel q.1 q.2 := by
      intro q hq
      rw [Display.pixel_flip, if_neg]
      rintro ⟨h1, h2⟩
      exact hp (by rwa [show q = p from Prod.ext h1 h2] at hq)
    constructor
    · intro px py
      show (ps.foldl drawPixel (d.flip p.1 p.2, hit || d.pixel p.1 p.2)).1.pixel px py = _
      rw [hd, Display.pixel_flip]
      by_cases h1 : (px, py) ∈ ps
      · have : ¬ (px = p.1 ∧ py = p.2) := by
          rintro ⟨rfl, rfl⟩
          exact hp h1
        simp [h1, this]
      · by_cases h2 : px = p.1 ∧ py = p.2
        · obtain ⟨rfl, rfl⟩ := h2
          simp [h1]
        · have : (px, py) ≠ p := fun h => h2 ⟨by rw [← h], by rw [← h]⟩
          simp [h1, h2, this]
    · show (ps.foldl drawPixel (d.flip p.1 p.2, hit || d.pixel p.1 p.2)).2 = true ↔ _
      rw [hc]
      constructor
      · rintro (h | ⟨q, hq, h⟩)
        · rcases Bool.or_eq_true _ _ ▸ h with h | h
          · exact .inl h
          · exact .inr ⟨p, by simp, h⟩
        · exact .inr ⟨q, by simp [hq], by rwa [other q hq] at h⟩
      · rintro (h | ⟨q, hq, h⟩)
        · exact .inl (by simp [h])
        · rcases List.mem_cons.mp hq with rfl | hq
          · exact .inl (by simp [h])
          · exact .inr ⟨q, hq, by rwa [other q hq]⟩

/-- Inverting a list of different pixels inverts exactly those. -/
theorem drawPixels_pixel {ps : List (Fin 64 × Fin 32)} (hn : ps.Nodup) (d : Display) (px : Fin 64) (py : Fin 32) :
    (drawPixels d ps).1.pixel px py = if (px, py) ∈ ps then !d.pixel px py else d.pixel px py :=
  (foldl_drawPixel hn d false).1 px py

/-- A collision is a pixel of the list that was set before. -/
theorem drawPixels_collision {ps : List (Fin 64 × Fin 32)} (hn : ps.Nodup) (d : Display) :
    (drawPixels d ps).2 = true ↔ ∃ p ∈ ps, d.pixel p.1 p.2 = true := by
  rw [drawPixels, (foldl_drawPixel hn d false).2]
  simp

/-! ### The pixels of a sprite (46_draw.md R226, R227) -/

theorem mem_rowTargets {x0 y0 row : Byte} {r : Nat} {p : Fin 64 × Fin 32} :
    p ∈ rowTargets x0 y0 r row ↔ ∃ c, c < 8 ∧ spriteBit row c = true ∧ p = spriteTarget x0 y0 r c := by
  simp only [rowTargets, List.mem_map, List.mem_filter, List.mem_range]
  constructor
  · rintro ⟨c, ⟨h1, h2⟩, rfl⟩
    exact ⟨c, h1, h2, rfl⟩
  · rintro ⟨c, h1, h2, rfl⟩
    exact ⟨c, ⟨h1, h2⟩, rfl⟩

/-- A pixel is inverted exactly when a set bit of some row lands on it. -/
theorem mem_spriteTargets {x0 y0 : Byte} {p : Fin 64 × Fin 32} : ∀ {rows : List Byte} {r : Nat},
    p ∈ spriteTargets x0 y0 r rows ↔
      ∃ (j c : Nat) (h : j < rows.length), c < 8 ∧ spriteBit rows[j] c = true ∧ p = spriteTarget x0 y0 (r + j) c := by
  intro rows
  induction rows with
  | nil => intro r; simp [spriteTargets]
  | cons row rows ih =>
    intro r
    rw [spriteTargets, List.mem_append, mem_rowTargets, ih]
    constructor
    · rintro (⟨c, h1, h2, h3⟩ | ⟨j, c, h, h1, h2, h3⟩)
      · exact ⟨0, c, by simp, h1, by simpa using h2, by simpa using h3⟩
      · exact ⟨j + 1, c, by simpa using h, h1, by simpa using h2, by rw [h3]; congr 1; omega⟩
    · rintro ⟨j, c, h, h1, h2, h3⟩
      cases j with
      | zero => exact .inl ⟨c, h1, by simpa using h2, by simpa using h3⟩
      | succ j => exact .inr ⟨j, c, by simpa using h, h1, by simpa using h2, by rw [h3]; congr 1; omega⟩

theorem spriteTarget_fst (x0 y0 : Byte) (r c : Nat) : (spriteTarget x0 y0 r c).1.val = (x0.toNat + c) % 64 := rfl

theorem spriteTarget_snd (x0 y0 : Byte) (r c : Nat) : (spriteTarget x0 y0 r c).2.val = (y0.toNat + r) % 32 := rfl

/-- No two bits of one sprite land on the same pixel: 8 columns are fewer than 64, at most 32 rows fit (R227). -/
theorem nodup_spriteTargets {x0 y0 : Byte} : ∀ {rows : List Byte} {r : Nat}, r + rows.length ≤ 32 →
    (spriteTargets x0 y0 r rows).Nodup := by
  intro rows
  induction rows with
  | nil => intro r _; simp [spriteTargets]
  | cons row rows ih =>
    intro r hr
    simp only [List.length_cons] at hr
    rw [spriteTargets, List.nodup_append]
    refine ⟨?_, ih (by omega), ?_⟩
    · unfold rowTargets
      refine List.Nodup.map_on ?_ (List.nodup_range.filter _)
      intro c hc d hd h
      have hc' := List.mem_range.mp (List.mem_filter.mp hc).1
      have hd' := List.mem_range.mp (List.mem_filter.mp hd).1
      have := congrArg (fun q => q.1.val) h
      simp only [spriteTarget_fst] at this
      omega
    · intro p hp q hq hpq
      subst hpq
      obtain ⟨c, _, _, h1⟩ := mem_rowTargets.mp hp
      obtain ⟨j, d, hj, _, _, h2⟩ := mem_spriteTargets.mp hq
      have := congrArg (fun q => q.2.val) (h1.symm.trans h2)
      simp only [spriteTarget_snd] at this
      omega

theorem nodup_drawTargets (s : State) (x y : RegIx) (n : Nibble) : (s.drawTargets x y n).Nodup := by
  have := n.isLt
  refine nodup_spriteTargets ?_
  simp [rowCount]
  omega

/-- The pixels a `DRW` inverts: bit `7 - c` of the byte at `I + r` lands on column `(V[x] + c) mod 64`, row
`(V[y] + r) mod 32`. -/
theorem mem_drawTargets {s : State} {x y : RegIx} {n : Nibble} {px : Fin 64} {py : Fin 32} :
    (px, py) ∈ s.drawTargets x y n ↔ ∃ r c, r < n.toNat ∧ c < 8 ∧
      (s.mem.read (s.i.toNat + r)).getLsbD (7 - c) = true ∧
      px.val = ((s.getV x).toNat + c) % 64 ∧ py.val = ((s.getV y).toNat + r) % 32 := by
  unfold State.drawTargets
  rw [mem_spriteTargets]
  constructor
  · rintro ⟨j, c, h, h1, h2, h3⟩
    rw [Memory.getElem_readBytes] at h2
    simp only [Memory.length_readBytes, rowCount] at h
    refine ⟨j, c, h, h1, h2, ?_, ?_⟩
    · rw [← spriteTarget_fst _ (s.getV y) (0 + j), ← h3]
    · rw [show (s.getV y).toNat + j = (s.getV y).toNat + (0 + j) by omega,
        ← spriteTarget_snd (s.getV x) _ (0 + j) c, ← h3]
  · rintro ⟨r, c, h, h1, h2, h3, h4⟩
    refine ⟨r, c, by simpa [rowCount] using h, h1, by rwa [Memory.getElem_readBytes], ?_⟩
    refine Prod.ext (Fin.ext ?_) (Fin.ext ?_)
    · rw [spriteTarget_fst]; exact h3
    · rw [spriteTarget_snd]; simpa using h4

end Sys2Proof.Machine
end

