-- ==== Sys2Proof/Laws/Ops.lean ====
section
/-! SUPPORT. For each shared operation, once, everything it can do. -/

namespace Sys2Proof.Machine

open Config

/-! ### Faults and checked accesses -/

theorem raise_eq (f : Fault) (s : State) : raise f s = .next (s.setMode (.faulted f)) := rfl

/-- A checked access whose bytes are all in range does what it was to do. -/
theorem checkedAccess_in_range {kind : AccessKind} {op : Word} {count : Nat} {s done : State}
    (h : count = 0 ∨ s.i.toNat + count ≤ 0x1000) : checkedAccess kind op count s done = .next done := by
  unfold checkedAccess spanOutOfRange
  rw [if_neg]
  simp
  omega

/-- A checked access that reaches an address above 0xFFF raises `MemoryOutOfRange` with the lowest such address. -/
theorem checkedAccess_out_of_range {kind : AccessKind} {op : Word} {count : Nat} {s done : State}
    (h1 : 0 < count) (h2 : 0x1000 < s.i.toNat + count) : checkedAccess kind op count s done =
      .next (s.setMode (.faulted (.memoryOutOfRange kind (max s.i.toNat 0x1000) s.instrPc (some op)))) := by
  unfold checkedAccess spanOutOfRange
  rw [if_pos]
  · rfl
  · simp [h1, h2]

/-- Everything a checked access can do. -/
theorem checkedAccess_cases {kind : AccessKind} {op : Word} {count : Nat} {s done t : State}
    (h : checkedAccess kind op count s done = .next t) :
    ((count = 0 ∨ s.i.toNat + count ≤ 0x1000) ∧ t = done) ∨
      (0 < count ∧ 0x1000 < s.i.toNat + count ∧
        t = s.setMode (.faulted (.memoryOutOfRange kind (max s.i.toNat 0x1000) s.instrPc (some op)))) := by
  by_cases hc : count = 0 ∨ s.i.toNat + count ≤ 0x1000
  · rw [checkedAccess_in_range hc] at h
    exact .inl ⟨hc, (Host.Outcome.next.inj h).symm⟩
  · rw [checkedAccess_out_of_range (by omega) (by omega)] at h
    exact .inr ⟨by omega, by omega, (Host.Outcome.next.inj h).symm⟩

/-! ### Return stack (41_control.md R132, R134) -/

theorem State.push_some {s : State} {w : Word} (h : s.sp.val < 16) : s.push w =
    some { s with stack := s.stack.set s.sp.val w h, sp := ⟨s.sp.val + 1, by omega⟩ } := by
  rw [State.push, dif_pos h]

theorem State.push_none {s : State} {w : Word} (h : s.sp.val = 16) : s.push w = none := by
  rw [State.push, dif_neg (by omega)]

theorem State.popToPc_some {s : State} (h : 0 < s.sp.val) : s.popToPc =
    some { s with pc := s.stack[s.sp.val - 1]'(by omega), sp := ⟨s.sp.val - 1, by omega⟩ } := by
  rw [State.popToPc, dif_pos h]

theorem State.popToPc_none {s : State} (h : s.sp.val = 0) : s.popToPc = none := by
  rw [State.popToPc, dif_neg (by omega)]

/-- A free place or a full stack. -/
theorem State.push_cases (s : State) (w : Word) : (∃ h : s.sp.val < 16, s.push w =
    some { s with stack := s.stack.set s.sp.val w h, sp := ⟨s.sp.val + 1, by omega⟩ }) ∨
      (s.sp.val = 16 ∧ s.push w = none) := by
  by_cases h : s.sp.val < 16
  · exact .inl ⟨h, State.push_some h⟩
  · exact .inr ⟨by omega, State.push_none (by omega)⟩

/-- A return address on the stack or an empty stack. -/
theorem State.popToPc_cases (s : State) : (∃ h : 0 < s.sp.val, s.popToPc =
    some { s with pc := s.stack[s.sp.val - 1]'(by omega), sp := ⟨s.sp.val - 1, by omega⟩ }) ∨
      (s.sp.val = 0 ∧ s.popToPc = none) := by
  by_cases h : 0 < s.sp.val
  · exact .inl ⟨h, State.popToPc_some h⟩
  · exact .inr ⟨by omega, State.popToPc_none (by omega)⟩

/-! ### Key indices (47_keys.md R242) -/

theorem keyIndex_in_range {p : Params} {b : Byte} (h : b.toNat ≤ 15) : keyIndex p b = some (b.setWidth 4) := by
  rw [keyIndex, if_pos h]

theorem keyIndex_low_nibble {p : Params} {b : Byte} (h : p.keyIndexOor = .lowNibble) :
    keyIndex p b = some (b.setWidth 4) := by
  unfold keyIndex
  split
  · rfl
  · rw [h]

theorem keyIndex_none {p : Params} {b : Byte} (h1 : 15 < b.toNat) (h2 : p.keyIndexOor = .fault) :
    keyIndex p b = none := by
  rw [keyIndex, if_neg (by omega), h2]

/-- Everything that naming a key can do. -/
theorem keyIndex_cases (p : Params) (b : Byte) : keyIndex p b = some (b.setWidth 4) ∨
    (15 < b.toNat ∧ p.keyIndexOor = .fault ∧ keyIndex p b = none) := by
  by_cases h : b.toNat ≤ 15
  · exact .inl (keyIndex_in_range h)
  · cases hp : p.keyIndexOor
    · exact .inr ⟨by omega, rfl, keyIndex_none (by omega) hp⟩
    · exact .inl (keyIndex_low_nibble hp)

/-! ### The arithmetic of bytes (43_alu.md R160, R172) -/

theorem sumByte_toNat (v w : Byte) : (sumByte v w).toNat = (v.toNat + w.toNat) % 256 := by simp [sumByte]

theorem differenceByte_toNat (v w : Byte) : (differenceByte v w).toNat = v.toNat - w.toNat := by
  have := v.isLt
  unfold differenceByte
  split
  · rw [BitVec.toNat_ofNat]; omega
  · simp; omega

theorem halfByte_toNat (v : Byte) : (halfByte v).toNat = v.toNat / 2 := by
  have := v.isLt
  rw [halfByte, BitVec.toNat_ofNat]; omega

theorem doubleByte_toNat (v : Byte) : (doubleByte v).toNat = 2 * v.toNat % 256 := by
  rw [doubleByte, BitVec.toNat_ofNat]; omega

theorem carryFlag_toNat (v w : Byte) : (carryFlag v w).toNat = if 255 < v.toNat + w.toNat then 1 else 0 := by
  simp [carryFlag, flagByte_toNat]

theorem notBorrowFlag_toNat (v w : Byte) : (notBorrowFlag v w).toNat = if w.toNat < v.toNat then 1 else 0 := by
  simp [notBorrowFlag, flagByte_toNat]

theorem lowBitFlag_toNat (v : Byte) : (lowBitFlag v).toNat = v.toNat % 2 := by
  rw [lowBitFlag, flagByte_toNat, BitVec.getLsbD, Nat.testBit_eq_decide_div_mod_eq]
  simp
  split <;> omega

theorem highBitFlag_toNat (v : Byte) : (highBitFlag v).toNat = v.toNat / 128 := by
  have := v.isLt
  rw [highBitFlag, flagByte_toNat, BitVec.getLsbD, Nat.testBit_eq_decide_div_mod_eq]
  simp
  split <;> omega

/-! ### Addresses (30_encoding.md R82, 44_index_timer_memory.md R196) -/

@[simp] theorem zextAddr_toNat (a : Addr) : (zextAddr a).toNat = a.toNat := by
  have := a.isLt
  rw [zextAddr, BitVec.toNat_setWidth]; omega

@[simp] theorem zextByte_toNat (b : Byte) : (zextByte b).toNat = b.toNat := by
  have := b.isLt
  rw [zextByte, BitVec.toNat_setWidth]; omega

/-- The glyph's address never wraps: it is at most 0x1B0 + 0x4FB. -/
theorem glyphAddress_toNat (p : Params) (b : Byte) :
    (glyphAddress p b).toNat = p.fontBase.val + 5 * fontDigit p b := by
  have h1 := p.fontBase.isLt
  have h2 := b.isLt
  have h3 : fontDigit p b ≤ b.toNat := by
    unfold fontDigit
    split
    · exact Nat.le_refl _
    · exact Nat.mod_le _ _
  rw [glyphAddress, BitVec.toNat_ofNat]; omega

/-! ### The cycle's parts (40_cycle.md R111) -/

theorem fetchFault_none {s : State} (h : s.pc.toNat ≤ 0xFFE) : fetchFault s = none := by
  rw [fetchFault, if_neg (by omega)]

theorem fetchFault_some {s : State} (h : 0xFFE < s.pc.toNat) :
    fetchFault s = some (.memoryOutOfRange .fetch (max s.pc.toNat 0x1000) s.pc none) := by
  rw [fetchFault, if_pos (by omega)]; rfl

theorem advancePc_toNat {s : State} (h : s.pc.toNat ≤ 0xFFE) : s.advancePc.pc.toNat = s.pc.toNat + 2 := by
  rw [State.advancePc_pc, BitVec.toNat_add]; simp; omega

end Sys2Proof.Machine
end

