-- ==== Sys2Proof/Laws/Exec.lean ====
section
/-! SUPPORT. What the instructions with more than one outcome do in each of their cases, and what each shared update
leaves the same. -/

namespace Sys2Proof.Machine

open Config

/-! ### One equation per case -/

theorem exec_call_push {s : State} {nnn : Addr} (h : s.sp.val < 16) : exec (.call nnn) s = .next
    { s with stack := s.stack.set s.sp.val s.pc h, sp := ⟨s.sp.val + 1, by omega⟩, pc := zextAddr nnn } := by
  show execCall nnn s = _
  rw [execCall, State.push_some h]
  rfl

theorem exec_call_full {s : State} {nnn : Addr} (h : s.sp.val = 16) : exec (.call nnn) s =
    .next (s.setMode (.faulted (.stackOverflow s.instrPc (encode (.call nnn))))) := by
  show execCall nnn s = _
  rw [execCall, State.push_none h]
  rfl

theorem exec_ret_pop {s : State} {x : Nibble} (h : 0 < s.sp.val) : exec (.ret x) s = .next
    { s with pc := s.stack[s.sp.val - 1]'(by omega), sp := ⟨s.sp.val - 1, by omega⟩ } := by
  show execRet x s = _
  rw [execRet, State.popToPc_some h]

theorem exec_ret_empty {s : State} {x : Nibble} (h : s.sp.val = 0) : exec (.ret x) s =
    .next (s.setMode (.faulted (.stackUnderflow s.instrPc (encode (.ret x))))) := by
  show execRet x s = _
  rw [execRet, State.popToPc_none h]
  rfl

theorem exec_addI_fits {s : State} {x : RegIx} (h : s.i.toNat + (s.getV x).toNat ≤ 0xFFFF) :
    exec (.addI x) s = .next (s.setI (s.i + zextByte (s.getV x))) := by
  show execAddI x s = _
  rw [execAddI, if_pos h]

theorem exec_addI_wraps {s : State} {x : RegIx} (h : s.params.iOverflow = .wrap) :
    exec (.addI x) s = .next (s.setI (s.i + zextByte (s.getV x))) := by
  show execAddI x s = _
  unfold execAddI
  split
  · rfl
  · rw [h]

theorem exec_addI_faults {s : State} {x : RegIx} (h1 : 0xFFFF < s.i.toNat + (s.getV x).toNat)
    (h2 : s.params.iOverflow = .fault) : exec (.addI x) s =
      .next (s.setMode (.faulted (.indexOverflow s.instrPc (encode (.addI x)) s.i (s.getV x)))) := by
  show execAddI x s = _
  rw [execAddI, if_neg (by omega), h2]
  rfl

theorem skipOnKey_some {s : State} {op : Word} {x : RegIx} {down : Bool} {k : RegIx}
    (h : keyIndex s.params (s.getV x) = some k) : skipOnKey op x down s = .next (s.skipIf (s.key k == down)) := by
  rw [skipOnKey, h]

theorem skipOnKey_none {s : State} {op : Word} {x : RegIx} {down : Bool}
    (h : keyIndex s.params (s.getV x) = none) : skipOnKey op x down s =
      .next (s.setMode (.faulted (.keyIndexOutOfRange s.instrPc op (s.getV x)))) := by
  rw [skipOnKey, h]
  rfl

/-! ### Frames of the shared updates -/

variable (s : State)

theorem sameExcept_setV (x : RegIx) (b : Byte) : SameExcept [.v] s (s.setV x b) := by
  intro p hp; cases p <;> simp_all [Same, State.key, State.pixel]

theorem sameExcept_writeWithFlag (x : RegIx) (r g : Byte) : SameExcept [.v] s (s.writeWithFlag x r g) := by
  intro p hp; cases p <;> simp_all [Same, State.key, State.pixel]

theorem sameExcept_setI (w : Word) : SameExcept [.i] s (s.setI w) := by
  intro p hp; cases p <;> simp_all [Same, State.key, State.pixel]

theorem sameExcept_setPc (w : Word) : SameExcept [.pc] s (s.setPc w) := by
  intro p hp; cases p <;> simp_all [Same, State.key, State.pixel]

theorem sameExcept_skipIf (b : Bool) : SameExcept [.pc] s (s.skipIf b) := by
  intro p hp; cases p <;> simp_all [Same, State.key, State.pixel]

theorem sameExcept_setMode (m : Mode) : SameExcept [.mode] s (s.setMode m) := by
  intro p hp; cases p <;> simp_all [Same, State.key, State.pixel]

theorem sameExcept_storeBytes (a : Nat) (bs : List Byte) : SameExcept [.mem] s (s.storeBytes a bs) := by
  intro p hp; cases p <;> simp_all [Same, State.key, State.pixel]

theorem sameExcept_loadRegs (a : Nat) (x : RegIx) : SameExcept [.v] s (s.loadRegs a x) := by
  intro p hp; cases p <;> simp_all [Same, State.key, State.pixel]

theorem sameExcept_drawAt (ps : List (Fin 64 × Fin 32)) :
    SameExcept [.v, .display, .events] s (s.drawAt ps) := by
  intro p hp; cases p <;> simp_all [Same, State.key]

/-- A longer list of exceptions says less. -/
theorem SameExcept.mono {s t : State} {ps qs : List Part} (h : SameExcept ps s t) (hs : ∀ p, p ∈ ps → p ∈ qs) :
    SameExcept qs s t := fun p hp => h p fun hq => hp (hs p hq)

end Sys2Proof.Machine
end

