-- ==== Sys2Proof/Laws/OpcodeMap.lean ====
section
/-! SUPPORT. The masks of the opcode map as arithmetic on the number of a word (30_encoding.md R84). -/

namespace Sys2Proof.Machine

open Config

/-- The bits a mask keeps, as a word put together from the fields it keeps: `F000` the family. -/
theorem and_F000 (op : Word) : op &&& 0xF000#16 = wordNnn (fieldFamily op) 0#12 := by
  apply BitVec.eq_of_getLsbD_eq
  intro j hj
  have e : ∀ w : Word, w.getLsbD j = w.toNat.testBit j := fun _ => rfl
  rw [BitVec.getLsbD_and, e, e, e, wordNnn_toNat, fieldFamily_toNat]
  simp only [Nat.testBit_eq_decide_div_mod_eq]
  interval_cases j <;> simp <;> omega

/-- `F00F` keeps the family and `n`. -/
theorem and_F00F (op : Word) : op &&& 0xF00F#16 = wordXYN (fieldFamily op) 0#4 0#4 (fieldN op) := by
  apply BitVec.eq_of_getLsbD_eq
  intro j hj
  have e : ∀ w : Word, w.getLsbD j = w.toNat.testBit j := fun _ => rfl
  rw [BitVec.getLsbD_and, e, e, e, wordXYN_toNat, fieldFamily_toNat, fieldN_toNat]
  simp only [Nat.testBit_eq_decide_div_mod_eq]
  interval_cases j <;> simp <;> omega

/-- `F0FF` keeps the family and `kk`. -/
theorem and_F0FF (op : Word) : op &&& 0xF0FF#16 = wordXKk (fieldFamily op) 0#4 (fieldKk op) := by
  apply BitVec.eq_of_getLsbD_eq
  intro j hj
  have e : ∀ w : Word, w.getLsbD j = w.toNat.testBit j := fun _ => rfl
  rw [BitVec.getLsbD_and, e, e, e, wordXKk_toNat, fieldFamily_toNat, fieldKk_toNat]
  simp only [Nat.testBit_eq_decide_div_mod_eq]
  interval_cases j <;> simp <;> omega

theorem and_F000_eq_iff (op p : Word) : op &&& 0xF000#16 = p ↔ op.toNat / 4096 * 4096 = p.toNat := by
  rw [and_F000, ← BitVec.toNat_inj, wordNnn_toNat, fieldFamily_toNat]; simp

theorem and_F00F_eq_iff (op p : Word) :
    op &&& 0xF00F#16 = p ↔ op.toNat / 4096 * 4096 + op.toNat % 16 = p.toNat := by
  rw [and_F00F, ← BitVec.toNat_inj, wordXYN_toNat, fieldFamily_toNat, fieldN_toNat]; simp

theorem and_F0FF_eq_iff (op p : Word) :
    op &&& 0xF0FF#16 = p ↔ op.toNat / 4096 * 4096 + op.toNat % 256 = p.toNat := by
  rw [and_F0FF, ← BitVec.toNat_inj, wordXKk_toNat, fieldFamily_toNat, fieldKk_toNat]; simp

theorem fieldKk_eq_iff (op : Word) (b : Byte) : fieldKk op = b ↔ op.toNat % 256 = b.toNat := by
  rw [← BitVec.toNat_inj, fieldKk_toNat]

theorem fieldX_eq_iff (op : Word) (b : RegIx) : fieldX op = b ↔ op.toNat / 256 % 16 = b.toNat := by
  rw [← BitVec.toNat_inj, fieldX_toNat]

/-- A word of family 0 is `CLS` or `RET` by its low byte where `ZERO_FAMILY_MATCH` lets it be (R85). -/
theorem and_zeroMask_eq_iff (z : ZeroFamilyMatch) (op p : Word) (hp : p.toNat < 256) : op &&& zeroMask z = p ↔
    op.toNat / 4096 * 4096 + op.toNat % 256 = p.toNat ∧ zeroFamilyMatches z op = true := by
  have := op.isLt
  cases z
  · rw [zeroMask, and_F0FF_eq_iff]; simp [zeroFamilyMatches]
  · rw [zeroMask, show op &&& 0xFFFF#16 = op from BitVec.and_allOnes, ← BitVec.toNat_inj]
    simp only [zeroFamilyMatches, beq_iff_eq, fieldX_eq_iff]
    simp
    omega

/-- Looking a word up in a map is a chain of tests, row by row. -/
theorem find_number_cons (rows : List MapRow) (r : MapRow) (p : MapRow → Bool) :
    ((r :: rows).find? p).map MapRow.number =
      if p r = true then some r.number else (rows.find? p).map MapRow.number := by
  rw [List.find?_cons]
  cases p r <;> rfl

end Sys2Proof.Machine
end

