-- ==== Sys2Proof/Laws/PerInstr.lean ====
section
/-! SUPPORT. Laws of every instruction as syntax, one lemma per constructor. -/

namespace Sys2Proof.Laws.TopNibble

/-- The word of an instruction has the top nibble of its row (30_encoding.md R83, R84). -/
def Statement (i : Instr) : Prop := fieldFamily (encode i) = i.family

theorem sys (nnn : Addr) : Statement (.sys nnn) := by simp [Statement, encode, Instr.family]
theorem cls (x : Nibble) : Statement (.cls x) := by simp [Statement, encode, Instr.family]
theorem ret (x : Nibble) : Statement (.ret x) := by simp [Statement, encode, Instr.family]
theorem jp (nnn : Addr) : Statement (.jp nnn) := by simp [Statement, encode, Instr.family]
theorem call (nnn : Addr) : Statement (.call nnn) := by simp [Statement, encode, Instr.family]
theorem seByte (x : RegIx) (kk : Byte) : Statement (.seByte x kk) := by simp [Statement, encode, Instr.family]
theorem sneByte (x : RegIx) (kk : Byte) : Statement (.sneByte x kk) := by simp [Statement, encode, Instr.family]
theorem seReg (x y : RegIx) (n : Nibble) : Statement (.seReg x y n) := by simp [Statement, encode, Instr.family]
theorem ldByte (x : RegIx) (kk : Byte) : Statement (.ldByte x kk) := by simp [Statement, encode, Instr.family]
theorem addByte (x : RegIx) (kk : Byte) : Statement (.addByte x kk) := by simp [Statement, encode, Instr.family]
theorem ldReg (x y : RegIx) : Statement (.ldReg x y) := by simp [Statement, encode, Instr.family]
theorem orReg (x y : RegIx) : Statement (.orReg x y) := by simp [Statement, encode, Instr.family]
theorem andReg (x y : RegIx) : Statement (.andReg x y) := by simp [Statement, encode, Instr.family]
theorem xorReg (x y : RegIx) : Statement (.xorReg x y) := by simp [Statement, encode, Instr.family]
theorem addReg (x y : RegIx) : Statement (.addReg x y) := by simp [Statement, encode, Instr.family]
theorem sub (x y : RegIx) : Statement (.sub x y) := by simp [Statement, encode, Instr.family]
theorem shr (x y : RegIx) : Statement (.shr x y) := by simp [Statement, encode, Instr.family]
theorem subn (x y : RegIx) : Statement (.subn x y) := by simp [Statement, encode, Instr.family]
theorem shl (x y : RegIx) : Statement (.shl x y) := by simp [Statement, encode, Instr.family]
theorem sneReg (x y : RegIx) (n : Nibble) : Statement (.sneReg x y n) := by simp [Statement, encode, Instr.family]
theorem ldI (nnn : Addr) : Statement (.ldI nnn) := by simp [Statement, encode, Instr.family]
theorem jpV0 (nnn : Addr) : Statement (.jpV0 nnn) := by simp [Statement, encode, Instr.family]
theorem rnd (x : RegIx) (kk : Byte) : Statement (.rnd x kk) := by simp [Statement, encode, Instr.family]
theorem drw (x y : RegIx) (n : Nibble) : Statement (.drw x y n) := by simp [Statement, encode, Instr.family]
theorem skp (x : RegIx) : Statement (.skp x) := by simp [Statement, encode, Instr.family]
theorem sknp (x : RegIx) : Statement (.sknp x) := by simp [Statement, encode, Instr.family]
theorem ldVxDt (x : RegIx) : Statement (.ldVxDt x) := by simp [Statement, encode, Instr.family]
theorem ldVxK (x : RegIx) : Statement (.ldVxK x) := by simp [Statement, encode, Instr.family]
theorem ldDtVx (x : RegIx) : Statement (.ldDtVx x) := by simp [Statement, encode, Instr.family]
theorem ldStVx (x : RegIx) : Statement (.ldStVx x) := by simp [Statement, encode, Instr.family]
theorem addI (x : RegIx) : Statement (.addI x) := by simp [Statement, encode, Instr.family]
theorem ldF (x : RegIx) : Statement (.ldF x) := by simp [Statement, encode, Instr.family]
theorem ldB (x : RegIx) : Statement (.ldB x) := by simp [Statement, encode, Instr.family]
theorem ldMemVx (x : RegIx) : Statement (.ldMemVx x) := by simp [Statement, encode, Instr.family]
theorem ldVxMem (x : RegIx) : Statement (.ldVxMem x) := by simp [Statement, encode, Instr.family]

end Sys2Proof.Laws.TopNibble
end

