-- ==== Sys2Proof/Laws/Step.lean ====
section
/-! SUPPORT. What one step can do, and what the host's other moves do. -/

namespace Sys2Proof.Machine

open Config

theorem step_waiting {s : State} {x : RegIx} (h : s.mode = .waitingForKey x) : step s = .next s := by
  rw [step, h]; rfl

theorem step_faulted {s : State} {f : Fault} (h : s.mode = .faulted f) : step s = .next s := by
  rw [step, h]; rfl

theorem step_fetch_fault {s : State} (h1 : s.mode = .running) (h2 : 0xFFE < s.pc.toNat) :
    step s = .next (s.setMode (.faulted (.memoryOutOfRange .fetch (max s.pc.toNat 0x1000) s.pc none))) := by
  rw [step, h1]
  simp only [fetchFault_some h2, raise_eq]

theorem step_unknown {s : State} {r : Reject} (h1 : s.mode = .running) (h2 : s.pc.toNat ≤ 0xFFE)
    (h3 : decode s.params.zeroMatch (fetchWord s) = .error r) : step s = .next s.advancePc := by
  rw [step, h1]
  simp only [fetchFault_none h2, h3]
  rfl

theorem step_instr {s : State} {i : Instr} (h1 : s.mode = .running) (h2 : s.pc.toNat ≤ 0xFFE)
    (h3 : decode s.params.zeroMatch (fetchWord s) = .ok i) : step s = exec i s.advancePc := by
  rw [step, h1]
  simp only [fetchFault_none h2, h3]

/-- Everything a step can do: nothing, while waiting or after a fault; a fetch fault; a no-op on an unknown word; the
instruction read, on the state after the `pc` advance. -/
theorem step_cases (s : State) :
    (s.mode ≠ .running ∧ step s = .next s) ∨
    (s.mode = .running ∧ 0xFFE < s.pc.toNat ∧
      step s = .next (s.setMode (.faulted (.memoryOutOfRange .fetch (max s.pc.toNat 0x1000) s.pc none)))) ∨
    (s.mode = .running ∧ s.pc.toNat ≤ 0xFFE ∧
      ∃ r, decode s.params.zeroMatch (fetchWord s) = .error r ∧ step s = .next s.advancePc) ∨
    (s.mode = .running ∧ s.pc.toNat ≤ 0xFFE ∧
      ∃ i, decode s.params.zeroMatch (fetchWord s) = .ok i ∧ step s = exec i s.advancePc) := by
  cases hm : s.mode with
  | faulted f => exact .inl ⟨by simp, step_faulted hm⟩
  | waitingForKey x => exact .inl ⟨by simp, step_waiting hm⟩
  | running =>
    by_cases hp : s.pc.toNat ≤ 0xFFE
    · cases hd : decode s.params.zeroMatch (fetchWord s) with
      | error r => exact .inr (.inr (.inl ⟨rfl, hp, r, rfl, step_unknown hm hp hd⟩))
      | ok i => exact .inr (.inr (.inr ⟨rfl, hp, i, rfl, step_instr hm hp hd⟩))
    · exact .inr (.inl ⟨rfl, by omega, step_fetch_fault hm (by omega)⟩)

/-! ### The host's moves (60_exceptions.md R259, R263, R264) -/

theorem isFaulted_eq_false {s : State} (h : ∀ f, s.mode ≠ .faulted f) : s.isFaulted = false := by
  unfold State.isFaulted
  cases hm : s.mode <;> simp_all

theorem isFaulted_eq_true {s : State} {f : Fault} (h : s.mode = .faulted f) : s.isFaulted = true := by
  rw [State.isFaulted, h]

theorem tick_running {s : State} (h : s.isFaulted = false) :
    tick s = { s with dt := countDown s.dt, st := countDown s.st } := by rw [tick, h]; rfl

theorem tick_faulted {s : State} (h : s.isFaulted = true) : tick s = s := by rw [tick, h]; rfl

theorem countDown_toNat (b : Byte) : (countDown b).toNat = b.toNat - 1 := by
  have := b.isLt
  unfold countDown
  split
  · rw [BitVec.toNat_sub]; simp; omega
  · omega

theorem setKey_next {s : State} {k : Nat} {b : Bool} (hk : k ≤ 15) (h : s.isFaulted = false) :
    setKey k b s = .next (s.setKeyState (BitVec.ofNat 4 k) b) := by
  rw [setKey, if_neg (by omega), h]; rfl

theorem keyPress_next {s : State} {k : Nat} (hk : k ≤ 15) (h : s.isFaulted = false) :
    keyPress k s = .next (resolveWait (BitVec.ofNat 4 k) (s.setKeyState (BitVec.ofNat 4 k) true)) := by
  rw [keyPress, if_neg (by omega), h]; rfl

end Sys2Proof.Machine
end

