-- ==== Sys2Proof/Tests/Slice0.lean ====
section
/-! SUPPORT. Tests. Every expected value is the spec's: the worked examples and vectors of 95_test_vectors.md, named in
each comment, and the encodings of 30_encoding.md R84. The witnesses show, for each statement with hypotheses, states
and operands that meet them, at the boundaries of their ranges. -/

namespace Sys2Proof.Tests

open Sys2Proof.Machine Sys2Proof.Config

/-! ### Helpers -/

/-- The construction state with a word at 0x200. -/
def loaded (w : Nat) : State := State.reset.withFetchWord 16 w

/-- The construction state with `pc = a` and a word there. -/
def loadedAt (a : Word) (w : Nat) : State := (State.reset.setPc a).withFetchWord 16 w

/-- What holds after an answer, if it is a next state. -/
def nextHas (r : Host.Outcome State Fault Refusal) (p : State → Bool) : Bool :=
  match r with
  | .next t => p t
  | .fault _ => false
  | .refused _ => false

/-- What holds after one step. -/
def after (s : State) (p : State → Bool) : Bool := nextHas (step s) p

/-! ### Well-formedness refuses what no word stands for (30_encoding.md R85) -/

theorem test_wellFormed_sys_not_cls : (Instr.sys 0x0E0#12).wellFormed .lowByte = false := by decide
theorem test_wellFormed_sys_not_ret : (Instr.sys 0x0EE#12).wellFormed .lowByte = false := by decide
theorem test_wellFormed_sys_not_cls_any_x : (Instr.sys 0x1E0#12).wellFormed .lowByte = false := by decide
theorem test_wellFormed_sys_not_ret_any_x : (Instr.sys 0xFEE#12).wellFormed .lowByte = false := by decide
theorem test_wellFormed_sys_not_cls_full : (Instr.sys 0x0E0#12).wellFormed .fullWord = false := by decide
theorem test_wellFormed_sys_not_ret_full : (Instr.sys 0x0EE#12).wellFormed .fullWord = false := by decide
theorem test_wellFormed_cls_full : (Instr.cls 0x1#4).wellFormed .fullWord = false := by decide
theorem test_wellFormed_ret_full : (Instr.ret 0x1#4).wellFormed .fullWord = false := by decide
theorem test_wellFormed_accepts :
    (Instr.sys 0x1E0#12).wellFormed .fullWord = true ∧ (Instr.cls 0x1#4).wellFormed .lowByte = true := by decide

/-! ### Every constructor's word, its bits written from the opcode map (30_encoding.md R81, R84) -/

theorem test_decode_sys : decode .lowByte 0b0000000100100011#16 = .ok (.sys 0x123#12) ∧
    encode (.sys 0x123#12) = 0x0123#16 := by decide
theorem test_decode_cls : decode .lowByte 0b0000000011100000#16 = .ok (.cls 0x0#4) ∧
    encode (.cls 0x0#4) = 0x00E0#16 := by decide
theorem test_decode_ret : decode .lowByte 0b0000000011101110#16 = .ok (.ret 0x0#4) ∧
    encode (.ret 0x0#4) = 0x00EE#16 := by decide
theorem test_decode_jp : decode .lowByte 0b0001001000110100#16 = .ok (.jp 0x234#12) ∧
    encode (.jp 0x234#12) = 0x1234#16 := by decide
theorem test_decode_call : decode .lowByte 0b0010001000010000#16 = .ok (.call 0x210#12) ∧
    encode (.call 0x210#12) = 0x2210#16 := by decide
theorem test_decode_seByte : decode .lowByte 0b0011010111111110#16 = .ok (.seByte 0x5#4 0xFE#8) ∧
    encode (.seByte 0x5#4 0xFE#8) = 0x35FE#16 := by decide
theorem test_decode_sneByte : decode .lowByte 0b0100101000010000#16 = .ok (.sneByte 0xA#4 0x10#8) ∧
    encode (.sneByte 0xA#4 0x10#8) = 0x4A10#16 := by decide
theorem test_decode_seReg : decode .lowByte 0b0101000100100000#16 = .ok (.seReg 0x1#4 0x2#4 0x0#4) ∧
    encode (.seReg 0x1#4 0x2#4 0x0#4) = 0x5120#16 := by decide
theorem test_decode_ldByte : decode .lowByte 0b0110101001000010#16 = .ok (.ldByte 0xA#4 0x42#8) ∧
    encode (.ldByte 0xA#4 0x42#8) = 0x6A42#16 := by decide
theorem test_decode_addByte : decode .lowByte 0b0111101011111111#16 = .ok (.addByte 0xA#4 0xFF#8) ∧
    encode (.addByte 0xA#4 0xFF#8) = 0x7AFF#16 := by decide
theorem test_decode_ldReg : decode .lowByte 0b1000000100100000#16 = .ok (.ldReg 0x1#4 0x2#4) ∧
    encode (.ldReg 0x1#4 0x2#4) = 0x8120#16 := by decide
theorem test_decode_orReg : decode .lowByte 0b1000011001010001#16 = .ok (.orReg 0x6#4 0x5#4) ∧
    encode (.orReg 0x6#4 0x5#4) = 0x8651#16 := by decide
theorem test_decode_andReg : decode .lowByte 0b1000011001010010#16 = .ok (.andReg 0x6#4 0x5#4) ∧
    encode (.andReg 0x6#4 0x5#4) = 0x8652#16 := by decide
theorem test_decode_xorReg : decode .lowByte 0b1000011001010011#16 = .ok (.xorReg 0x6#4 0x5#4) ∧
    encode (.xorReg 0x6#4 0x5#4) = 0x8653#16 := by decide
theorem test_decode_addReg : decode .lowByte 0b1000000000010100#16 = .ok (.addReg 0x0#4 0x1#4) ∧
    encode (.addReg 0x0#4 0x1#4) = 0x8014#16 := by decide
theorem test_decode_sub : decode .lowByte 0b1000000100100101#16 = .ok (.sub 0x1#4 0x2#4) ∧
    encode (.sub 0x1#4 0x2#4) = 0x8125#16 := by decide
theorem test_decode_shr : decode .lowByte 0b1000000111000110#16 = .ok (.shr 0x1#4 0xC#4) ∧
    encode (.shr 0x1#4 0xC#4) = 0x81C6#16 := by decide
theorem test_decode_subn : decode .lowByte 0b1000010000010111#16 = .ok (.subn 0x4#4 0x1#4) ∧
    encode (.subn 0x4#4 0x1#4) = 0x8417#16 := by decide
theorem test_decode_shl : decode .lowByte 0b1000010100001110#16 = .ok (.shl 0x5#4 0x0#4) ∧
    encode (.shl 0x5#4 0x0#4) = 0x850E#16 := by decide
theorem test_decode_sneReg : decode .lowByte 0b1001000100100000#16 = .ok (.sneReg 0x1#4 0x2#4 0x0#4) ∧
    encode (.sneReg 0x1#4 0x2#4 0x0#4) = 0x9120#16 := by decide
theorem test_decode_ldI : decode .lowByte 0b1010001100000000#16 = .ok (.ldI 0x300#12) ∧
    encode (.ldI 0x300#12) = 0xA300#16 := by decide
theorem test_decode_jpV0 : decode .lowByte 0b1011111111111111#16 = .ok (.jpV0 0xFFF#12) ∧
    encode (.jpV0 0xFFF#12) = 0xBFFF#16 := by decide
theorem test_decode_rnd : decode .lowByte 0b1100001100001111#16 = .ok (.rnd 0x3#4 0x0F#8) ∧
    encode (.rnd 0x3#4 0x0F#8) = 0xC30F#16 := by decide
theorem test_decode_drw : decode .lowByte 0b1101010111111100#16 = .ok (.drw 0x5#4 0xF#4 0xC#4) ∧
    encode (.drw 0x5#4 0xF#4 0xC#4) = 0xD5FC#16 := by decide
theorem test_decode_skp : decode .lowByte 0b1110001110011110#16 = .ok (.skp 0x3#4) ∧
    encode (.skp 0x3#4) = 0xE39E#16 := by decide
theorem test_decode_sknp : decode .lowByte 0b1110010110100001#16 = .ok (.sknp 0x5#4) ∧
    encode (.sknp 0x5#4) = 0xE5A1#16 := by decide
theorem test_decode_ldVxDt : decode .lowByte 0b1111001000000111#16 = .ok (.ldVxDt 0x2#4) ∧
    encode (.ldVxDt 0x2#4) = 0xF207#16 := by decide
theorem test_decode_ldVxK : decode .lowByte 0b1111001100001010#16 = .ok (.ldVxK 0x3#4) ∧
    encode (.ldVxK 0x3#4) = 0xF30A#16 := by decide
theorem test_decode_ldDtVx : decode .lowByte 0b1111000000010101#16 = .ok (.ldDtVx 0x0#4) ∧
    encode (.ldDtVx 0x0#4) = 0xF015#16 := by decide
theorem test_decode_ldStVx : decode .lowByte 0b1111000100011000#16 = .ok (.ldStVx 0x1#4) ∧
    encode (.ldStVx 0x1#4) = 0xF118#16 := by decide
theorem test_decode_addI : decode .lowByte 0b1111001100011110#16 = .ok (.addI 0x3#4) ∧
    encode (.addI 0x3#4) = 0xF31E#16 := by decide
theorem test_decode_ldF : decode .lowByte 0b1111000000101001#16 = .ok (.ldF 0x0#4) ∧
    encode (.ldF 0x0#4) = 0xF029#16 := by decide
theorem test_decode_ldB : decode .lowByte 0b1111101000110011#16 = .ok (.ldB 0xA#4) ∧
    encode (.ldB 0xA#4) = 0xFA33#16 := by decide
theorem test_decode_ldMemVx : decode .lowByte 0b1111110101010101#16 = .ok (.ldMemVx 0xD#4) ∧
    encode (.ldMemVx 0xD#4) = 0xFD55#16 := by decide
theorem test_decode_ldVxMem : decode .lowByte 0b1111001001100101#16 = .ok (.ldVxMem 0x2#4) ∧
    encode (.ldVxMem 0x2#4) = 0xF265#16 := by decide

/-- Bits no row examines: `5xyn` and `9xyn` for any `n` (R86), `0XE0` and `0XEE` for any `X` (R85). -/
theorem test_decode_unexamined : decode .lowByte 0x5121#16 = .ok (.seReg 0x1#4 0x2#4 0x1#4) ∧
    decode .lowByte 0x912F#16 = .ok (.sneReg 0x1#4 0x2#4 0xF#4) ∧ decode .lowByte 0x01E0#16 = .ok (.cls 0x1#4) ∧
    decode .lowByte 0x01EE#16 = .ok (.ret 0x1#4) := by decide

/-- `ZERO_FAMILY_MATCH = full_word` (R85, T-CYC-8). -/
theorem test_decode_full_word : decode .fullWord 0x01E0#16 = .ok (.sys 0x1E0#12) ∧
    decode .fullWord 0x00E0#16 = .ok (.cls 0x0#4) ∧ decode .fullWord 0x00EE#16 = .ok (.ret 0x0#4) := by decide

/-- Unknown words, each family (R88). -/
theorem test_decode_unknown : decode .lowByte 0x8008#16 = .error .unknownInFamily8 ∧
    decode .lowByte 0xE000#16 = .error .unknownInFamilyE ∧ decode .lowByte 0xF0FF#16 = .error .unknownInFamilyF := by
  decide

/-- The host's numbering of a row's bits gives the same readings. -/
theorem test_decodeTableWord : decodeTableWord 16 0x35FE = some (.seByte 0x5#4 0xFE#8) ∧
    decodeTableWord 16 0xF0FF = none := by decide

/-! ### The construction state (10_state.md R39, R40) -/

/-- The 16 glyphs of R40's table, and the byte after the font. -/
theorem test_reset_font : State.reset.mem.readBytes 0x000 80 =
    [0xF0#8, 0x90#8, 0x90#8, 0x90#8, 0xF0#8] ++ [0x20#8, 0x60#8, 0x20#8, 0x20#8, 0x70#8] ++
    [0xF0#8, 0x10#8, 0xF0#8, 0x80#8, 0xF0#8] ++ [0xF0#8, 0x10#8, 0xF0#8, 0x10#8, 0xF0#8] ++
    [0x90#8, 0x90#8, 0xF0#8, 0x10#8, 0x10#8] ++ [0xF0#8, 0x80#8, 0xF0#8, 0x10#8, 0xF0#8] ++
    [0xF0#8, 0x80#8, 0xF0#8, 0x90#8, 0xF0#8] ++ [0xF0#8, 0x10#8, 0x20#8, 0x40#8, 0x40#8] ++
    [0xF0#8, 0x90#8, 0xF0#8, 0x90#8, 0xF0#8] ++ [0xF0#8, 0x90#8, 0xF0#8, 0x10#8, 0xF0#8] ++
    [0xF0#8, 0x90#8, 0xF0#8, 0x90#8, 0x90#8] ++ [0xE0#8, 0x90#8, 0xE0#8, 0x90#8, 0xE0#8] ++
    [0xF0#8, 0x80#8, 0x80#8, 0x80#8, 0xF0#8] ++ [0xE0#8, 0x90#8, 0x90#8, 0x90#8, 0xE0#8] ++
    [0xF0#8, 0x80#8, 0xF0#8, 0x80#8, 0xF0#8] ++ [0xF0#8, 0x80#8, 0xF0#8, 0x80#8, 0x80#8] ∧
    State.reset.mem.read 0x050 = 0x00#8 := by decide

/-- Writing what an unlisted byte reads as leaves no cell. -/
theorem test_memory_canonical : (Memory.write [] 0x000 0xF0#8 = []) ∧ (Memory.write [] 0x300 0x00#8 = []) ∧
    (Memory.write (Memory.write [] 0x301 0x01#8) 0x300 0x02#8 = [(0x300, 0x02#8), (0x301, 0x01#8)]) := by decide

/-! ### The cycle -/

/-- T-CYC-1. -/
theorem test_fetch_big_endian : after (loaded 0x1234)
    (fun t => t.pc == 0x234#16) = true := by decide
/-- T-CYC-2. -/
theorem test_fetch_odd_pc : after (loadedAt 0x203#16 0x6011)
    (fun t => t.getV 0x0#4 == 0x11#8 && t.pc == 0x205#16) = true := by decide
/-- T-CYC-3. -/
theorem test_fetch_last_word : after (loadedAt 0xFFE#16 0x6001)
    (fun t => t.getV 0x0#4 == 0x01#8 && t.pc == 0x1000#16) = true := by decide
/-- T-CYC-4. -/
theorem test_fetch_fault : after (State.reset.setPc 0xFFF#16)
    (fun t => t.mode == .faulted (.memoryOutOfRange .fetch 0x1000 0xFFF#16 none) && t.pc == 0xFFF#16) = true := by
      decide
/-- T-CTL-11, its next step. -/
theorem test_fetch_fault_above : after (State.reset.setPc 0x10FE#16)
    (fun t => t.mode == .faulted (.memoryOutOfRange .fetch 0x10FE 0x10FE#16 none)) = true := by decide
/-- T-CYC-5. -/
theorem test_unknown_is_noop : after (loaded 0x8008)
    (fun t => t == (loaded 0x8008).setPc 0x202#16) = true := by decide
/-- T-CYC-9. -/
theorem test_waiting_step : after ((loaded 0x6001).setMode (.waitingForKey 0x3#4))
    (fun t => t == (loaded 0x6001).setMode (.waitingForKey 0x3#4)) = true := by decide
/-- T-CYC-10. -/
theorem test_faulted_step : after ((loaded 0x6001).setMode (.faulted (.stackUnderflow 0x200#16 0x00EE#16)))
    (fun t => t == (loaded 0x6001).setMode (.faulted (.stackUnderflow 0x200#16 0x00EE#16))) = true := by decide

/-! ### Control -/

/-- T-CTL-1. -/
theorem test_sys : after (loaded 0x0123)
    (fun t => t == (loaded 0x0123).setPc 0x202#16) = true := by decide
/-- A display with the pixels (0,0) and (63,31) set. -/
def twoPixels : Display := (blankDisplay.flip 0 0).flip 63 31

/-- T-CTL-2. -/
theorem test_cls : after ({ loaded 0x00E0 with display := twoPixels }.setV 0xF#4 0x01#8)
    (fun t => !t.pixel 0 0 && !t.pixel 63 31 && t.getV 0xF#4 == 0x01#8 && t.events == [.displayCleared] && t.pc ==
      0x202#16) = true := by decide
/-- T-CTL-3. -/
theorem test_ret : after ({ loadedAt 0x210#16 0x00EE with sp := 1, stack := State.reset.stack.set 0 0x206#16 })
    (fun t => t.pc == 0x206#16 && t.sp == 0) = true := by decide
/-- T-CTL-4. -/
theorem test_ret_underflow : after (loaded 0x00EE)
    (fun t => t.mode == .faulted (.stackUnderflow 0x200#16 0x00EE#16)) = true := by decide
/-- T-CTL-6. -/
theorem test_jp : after (loaded 0x1FFF)
    (fun t => t.pc == 0xFFF#16 && t.mode == .running) = true := by decide
/-- T-CTL-8. -/
theorem test_call : after ({ loadedAt 0x300#16 0x2400 with sp := 15 })
    (fun t => t.stack[15] == 0x302#16 && t.sp == 16 && t.pc == 0x400#16) = true := by decide
/-- T-CTL-9. -/
theorem test_call_overflow : after ({ loadedAt 0x400#16 0x2500 with sp := 16 })
    (fun t => t.mode == .faulted (.stackOverflow 0x400#16 0x2500#16)) = true := by decide
/-- T-CTL-11. -/
theorem test_jpV0_unmasked : after ((loaded 0xBFFF).setV 0x0#4 0xFF#8)
    (fun t => t.pc == 0x10FE#16) = true := by decide
/-- T-CTL-12. -/
theorem test_jpV0_odd : after ((loaded 0xB201).setV 0x0#4 0x01#8)
    (fun t => t.pc == 0x202#16) = true := by decide

/-! ### Skips -/

/-- T-SKP-1. -/
theorem test_seByte_taken : after ((loaded 0x35FE).setV 0x5#4 0xFE#8)
    (fun t => t.pc == 0x204#16) = true := by decide
/-- T-SKP-2. -/
theorem test_seByte_not_taken : after ((loaded 0x35FE).setV 0x5#4 0xFD#8)
    (fun t => t.pc == 0x202#16) = true := by decide
/-- T-SKP-3. -/
theorem test_sneByte_taken : after ((loaded 0x4A10).setV 0xA#4 0x11#8)
    (fun t => t.pc == 0x204#16) = true := by decide
/-- T-SKP-4. -/
theorem test_sneByte_not_taken : after ((loaded 0x4A10).setV 0xA#4 0x10#8)
    (fun t => t.pc == 0x202#16) = true := by decide
/-- T-SKP-6. -/
theorem test_seReg_low_nibble : after (((loaded 0x5121).setV 0x1#4 0x07#8).setV 0x2#4 0x07#8)
    (fun t => t.pc == 0x204#16) = true := by decide
/-- From R152. -/
theorem test_seReg_not_taken : after (((loaded 0x5120).setV 0x1#4 0x01#8).setV 0x2#4 0x02#8)
    (fun t => t.pc == 0x202#16) = true := by decide
/-- T-SKP-7. -/
theorem test_sneReg_taken : after (((loaded 0x9120).setV 0x1#4 0x01#8).setV 0x2#4 0x02#8)
    (fun t => t.pc == 0x204#16) = true := by decide
/-- T-SKP-8. -/
theorem test_sneReg_same : after ((loaded 0x9330).setV 0x3#4 0x55#8)
    (fun t => t.pc == 0x202#16) = true := by decide

/-! ### ALU -/

/-- T-ALU-1. -/
theorem test_ldByte : after (((loaded 0x6A42).setV 0xF#4 0x01#8))
    (fun t => t.getV 0xA#4 == 0x42#8 && t.getV 0xF#4 == 0x01#8) = true := by decide
/-- T-ALU-3. -/
theorem test_addByte_no_flag : after (((((loaded 0x7AFF).setV 0xA#4 0x02#8)).setV 0xF#4 0x07#8))
    (fun t => t.getV 0xA#4 == 0x01#8 && t.getV 0xF#4 == 0x07#8) = true := by decide
/-- T-ALU-4. -/
theorem test_addByte_vf : after (((loaded 0x7F01).setV 0xF#4 0xFF#8))
    (fun t => t.getV 0xF#4 == 0x00#8) = true := by decide
/-- T-ALU-5. -/
theorem test_ldReg : after (((loaded 0x8120).setV 0x2#4 0x3C#8))
    (fun t => t.getV 0x1#4 == 0x3C#8 && t.getV 0x2#4 == 0x3C#8) = true := by decide
/-- T-OR-1. -/
theorem test_orReg : after (((((((loaded 0x8651).setV 0x6#4 0x33#8)).setV 0x5#4 0x41#8)).setV 0xF#4 0x01#8))
    (fun t => t.getV 0x6#4 == 0x73#8 && t.getV 0xF#4 == 0x01#8) = true := by decide
/-- T-AND-1. -/
theorem test_andReg : after (((((((loaded 0x8652).setV 0x6#4 0x73#8)).setV 0x5#4 0x41#8)).setV 0xF#4 0x01#8))
    (fun t => t.getV 0x6#4 == 0x41#8 && t.getV 0xF#4 == 0x01#8) = true := by decide
/-- T-XOR-1. -/
theorem test_xorReg : after (((((loaded 0x8653).setV 0x6#4 0x41#8)).setV 0x5#4 0x41#8))
    (fun t => t.getV 0x6#4 == 0x00#8 && t.getV 0xF#4 == 0x00#8) = true := by decide
/-- T-ADD-3. -/
theorem test_addReg_carry : after (((((loaded 0x8014).setV 0x0#4 0xFF#8)).setV 0x1#4 0x01#8))
    (fun t => t.getV 0x0#4 == 0x00#8 && t.getV 0xF#4 == 0x01#8) = true := by decide
/-- T-ADD-6, `flag_last`. -/
theorem test_addReg_vf_flag_last : after (((((loaded 0x8F14).setV 0xF#4 0xFF#8)).setV 0x1#4 0x01#8))
    (fun t => t.getV 0xF#4 == 0x01#8) = true := by decide
/-- T-SUB-3. -/
theorem test_sub_equal : after (((((((loaded 0x8125).setV 0x1#4 0x42#8)).setV 0x2#4 0x42#8)).setV 0xF#4 0x01#8))
    (fun t => t.getV 0x1#4 == 0x00#8 && t.getV 0xF#4 == 0x00#8) = true := by decide
/-- T-SUB-2. -/
theorem test_sub_saturates : after (((((loaded 0x8125).setV 0x1#4 0x10#8)).setV 0x2#4 0x30#8))
    (fun t => t.getV 0x1#4 == 0x00#8 && t.getV 0xF#4 == 0x00#8) = true := by decide
/-- T-SHR-3. -/
theorem test_shr : after (((((loaded 0x81C6).setV 0x1#4 0xFF#8)).setV 0xC#4 0x00#8))
    (fun t => t.getV 0x1#4 == 0x7F#8 && t.getV 0xF#4 == 0x01#8) = true := by decide
/-- T-SHR-4, `result_last`. -/
theorem test_shr_vf_result_last : after ((((loaded 0x8F06).setV 0xF#4 0x02#8)).withVfOrder .resultLast)
    (fun t => t.getV 0xF#4 == 0x01#8) = true := by decide
/-- T-SUBN-1. -/
theorem test_subn : after (((((loaded 0x8417).setV 0x4#4 0x05#8)).setV 0x1#4 0x20#8))
    (fun t => t.getV 0x4#4 == 0x1B#8 && t.getV 0xF#4 == 0x01#8) = true := by decide
/-- T-SUBN-2. -/
theorem test_subn_saturates : after (((((loaded 0x8417).setV 0x4#4 0x20#8)).setV 0x1#4 0x05#8))
    (fun t => t.getV 0x4#4 == 0x00#8 && t.getV 0xF#4 == 0x00#8) = true := by decide
/-- T-SHL-3. -/
theorem test_shl : after (((loaded 0x810E).setV 0x1#4 0x80#8))
    (fun t => t.getV 0x1#4 == 0x00#8 && t.getV 0xF#4 == 0x01#8) = true := by decide
/-- T-SHL-4, `result_last`. -/
theorem test_shl_vf_result_last : after ((((loaded 0x8F0E).setV 0xF#4 0x81#8)).withVfOrder .resultLast)
    (fun t => t.getV 0xF#4 == 0x02#8) = true := by decide

/-! ### Index, timers, key wait, font, BCD, block transfer -/

/-- T-MEM-1. -/
theorem test_ldI : after (loaded 0xA300)
    (fun t => t.i == 0x300#16) = true := by decide
/-- T-MEM-3. -/
theorem test_addI_unmasked : after (((loaded 0xF31E).setI 0xFFF#16).setV 0x3#4 0x01#8)
    (fun t => t.i == 0x1000#16 && t.mode == .running) = true := by decide
/-- T-MEM-4, `fault`. -/
theorem test_addI_overflow : after (((loaded 0xF31E).setI 0xFFFF#16).setV 0x3#4 0x01#8)
    (fun t => t.mode == .faulted (.indexOverflow 0x200#16 0xF31E#16 0xFFFF#16 0x01#8)) = true := by decide
/-- T-MEM-5. -/
theorem test_ldF : after ((loaded 0xF029).setV 0x0#4 0x07#8)
    (fun t => t.i == 0x023#16) = true := by decide
/-- T-MEM-6, `unmasked`. -/
theorem test_ldF_unmasked : after ((loaded 0xF029).setV 0x0#4 0x12#8)
    (fun t => t.i == 0x05A#16) = true := by decide
/-- T-MEM-7. -/
theorem test_ldMemVx : after ((((((loaded 0xF255).setV 0x0#4 0x01#8).setV 0x1#4 0x02#8).setV 0x2#4 0x03#8).setI
    0x400#16).storeBytes 0x403 [0x99#8])
    (fun t => t.mem.readBytes 0x400 4 == [0x01#8, 0x02#8, 0x03#8, 0x99#8] && t.i == 0x400#16) = true := by decide
/-- T-MEM-12. -/
theorem test_ldMemVx_fault : after (((loaded 0xF255).setI 0xFFE#16).setV 0x0#4 0x07#8)
    (fun t => t.mode == .faulted (.memoryOutOfRange .write 0x1000 0x200#16 (some 0xF255#16)) && t.mem.read 0xFFE ==
      0x00#8) = true := by decide
/-- T-MEM-8. -/
theorem test_ldVxMem : after ((((loaded 0xF265).storeBytes 0x300 [0x01#8, 0x05#8, 0x06#8]).setI 0x300#16).setV
    0x3#4 0xEE#8)
    (fun t => t.regsUpTo 0x3#4 == [0x01#8, 0x05#8, 0x06#8, 0xEE#8] && t.i == 0x300#16) = true := by decide
/-- T-MEM-13. -/
theorem test_ldVxMem_fault : after ((loaded 0xF065).setI 0x1005#16)
    (fun t => t.mode == .faulted (.memoryOutOfRange .read 0x1005 0x200#16 (some 0xF065#16))) = true := by decide
/-- T-MEM-15. -/
theorem test_ldB : after (((loaded 0xF133).setI 0x300#16).setV 0x1#4 0xFF#8)
    (fun t => t.mem.readBytes 0x300 3 == [0x02#8, 0x05#8, 0x05#8] && t.i == 0x300#16) = true := by decide
/-- T-MEM-17. -/
theorem test_ldB_fault : after ((loaded 0xF133).setI 0xFFE#16)
    (fun t => t.mode == .faulted (.memoryOutOfRange .write 0x1000 0x200#16 (some 0xF133#16))) = true := by decide
/-- T-MEM-18. -/
theorem test_ldVxDt : after ((loaded 0xF207).setDt 0x2A#8)
    (fun t => t.getV 0x2#4 == 0x2A#8) = true := by decide
/-- T-MEM-19. -/
theorem test_ldDtVx : after ((loaded 0xF015).setV 0x0#4 0x3C#8)
    (fun t => t.dt == 0x3C#8) = true := by decide
/-- T-MEM-20. -/
theorem test_ldStVx : after ((loaded 0xF118).setV 0x1#4 0x02#8)
    (fun t => t.st == 0x02#8 && t.soundOn) = true := by decide
/-- T-MEM-21. -/
theorem test_ldVxK : after (loaded 0xF30A)
    (fun t => t.mode == .waitingForKey 0x3#4 && t.pc == 0x202#16 && t.events == [.keyWaitEntered 0x3#4] && t.getV
      0x3#4 == 0x00#8) = true := by decide

/-! ### Random -/

/-- T-RND-2 and T-RND-4: what holds for every draw. -/
theorem test_rnd_mask : ∀ s : State, ∃ t, exec (.rnd 0x3#4 0x00#8) s = .next t ∧ t.getV 0x3#4 = 0x00#8 :=
  fun s => ⟨_, rfl, by simp⟩

/-! ### Draw -/

/-- A word at 0x200, sprite bytes at 0x300, and `I` there. -/
def sprite (w : Nat) (rows : List Byte) (v0 v1 : Byte) : State :=
  ((((loaded w).storeBytes 0x300 rows).setI 0x300#16).setV 0x0#4 v0).setV 0x1#4 v1

/-- T-DRW-2 and T-DRW-3 in one sprite. -/
theorem test_drw_wraps : after ({ sprite 0xD012 [0xC0#8, 0xC0#8] 63#8 31#8 with display := blankDisplay })
    (fun t => t.pixel 63 31 && t.pixel 0 31 && t.pixel 63 0 && t.pixel 0 0 && !t.pixel 1 0 && t.getV 0xF#4 == 0x00#8 &&
      t.events == [.displayChanged]) = true := by decide
/-- T-DRW-5. -/
theorem test_drw_no_collision : after ({ sprite 0xD011 [0x40#8] 0#8 0#8 with display := blankDisplay.flip 0 0
    }.setV 0xF#4 0x01#8)
    (fun t => t.pixel 0 0 && t.pixel 1 0 && t.getV 0xF#4 == 0x00#8) = true := by decide

/-! ### Keys -/

/-- T-KEY-1. -/
theorem test_skp_down : after (((loaded 0xE39E).setKeyState 0xA#4 true).setV 0x3#4 0x0A#8)
    (fun t => t.pc == 0x204#16) = true := by decide
/-- T-KEY-5, `fault`. -/
theorem test_skp_index_fault : after ((loaded 0xE39E).setV 0x3#4 0x1A#8)
    (fun t => t.mode == .faulted (.keyIndexOutOfRange 0x200#16 0xE39E#16 0x1A#8)) = true := by decide
/-- T-KEY-3. -/
theorem test_sknp_up : after ((loaded 0xE5A1).setV 0x5#4 0x02#8)
    (fun t => t.pc == 0x204#16) = true := by decide
/-- T-KEY-4. -/
theorem test_sknp_down : after (((loaded 0xE5A1).setKeyState 0x2#4 true).setV 0x5#4 0x02#8)
    (fun t => t.pc == 0x202#16) = true := by decide

/-! ### Timers, sound and the host's ports -/

/-- T-TMR-1 and T-TMR-2. -/
theorem test_tick : (tick ((State.reset.setDt 0x05#8).setSt 0x01#8)).dt = 0x04#8 ∧
    (tick ((State.reset.setDt 0x05#8).setSt 0x01#8)).soundOn = false ∧ (tick State.reset).dt = 0x00#8 := by decide

/-- T-TMR-3: a tick acts in a key wait. -/
theorem test_tick_waiting : (tick ((State.reset.setDt 0x03#8).setMode (.waitingForKey 0x0#4))).dt = 0x02#8 := by decide

/-- T-MEM-23: a key press ends the wait. -/
theorem test_keyPress_resolves : nextHas (keyPress 0xA ((State.reset.setPc 0x202#16).setMode (.waitingForKey 0x3#4)))
    (fun t => t.getV 0x3#4 == 0x0A#8 && t.key 0xA#4 && t.mode == .running && t.pc == 0x202#16 &&
      t.events == [.keyWaitResolved 0x3#4 0xA#4]) = true := by decide

/-- T-HOST-1: a key press in `Running` only sets the key. -/
theorem test_keyPress_running : nextHas (keyPress 4 State.reset)
    (fun t => t.key 0x4#4 && t.mode == .running && t.getV 0x4#4 == 0x00#8) = true := by decide

/-- T-MEM-24: `set_key` does not end the wait. -/
theorem test_setKey_waiting : nextHas (setKey 0xA true (State.reset.setMode (.waitingForKey 0x3#4)))
    (fun t => t.key 0xA#4 && t.mode == .waitingForKey 0x3#4) = true := by decide

/-- An index above 15 is no key (60_exceptions.md R263, R264). -/
theorem test_key_index_refused : setKey 16 true State.reset = .refused .keyIndexOutsideInterface ∧
    keyPress 16 State.reset = .refused .keyIndexOutsideInterface := ⟨rfl, rfl⟩

/-- An image that is not 4096 bytes long is refused (10_state.md R37). -/
theorem test_load_refuses : load State.reset defaultParams [] 0x200#16 = .refused .imageOutsideInterface := rfl


/-! ### Witnesses: the hypotheses of each statement can be met -/

/-- The construction state with other parameters. -/
def withParams (p : Params) : State := { State.reset with params := p }

theorem witness_DecodeEncodeRoundTrip : (Instr.cls 0xF#4).wellFormed .lowByte = true ∧
    (Instr.sys 0x1E0#12).wellFormed .fullWord = true ∧ (Instr.ldVxMem 0xF#4).wellFormed .lowByte = true := by decide
theorem witness_EncodeOfDecodedWord : decode .lowByte 0x0FEE#16 = .ok (.ret 0xF#4) ∧
    decode .fullWord 0x0FEE#16 = .ok (.sys 0xFEE#12) := by decide
theorem witness_UnknownWordsAreExactlyThese : decode .lowByte 0x8007#16 = .ok (.subn 0x0#4 0x0#4) ∧
    decode .lowByte 0x800D#16 = .error .unknownInFamily8 ∧ decode .lowByte 0x800F#16 = .error .unknownInFamily8 ∧
    decode .lowByte 0xE09D#16 = .error .unknownInFamilyE ∧ decode .lowByte 0xF066#16 = .error .unknownInFamilyF := by
  decide
theorem witness_StepRunsDecodedInstruction : (loadedAt 0xFFE#16 0x6001).mode = .running ∧
    (loadedAt 0xFFE#16 0x6001).pc.toNat ≤ 0xFFE ∧
    decode (loadedAt 0xFFE#16 0x6001).params.zeroMatch (BitVec.ofNat 16
      (((loadedAt 0xFFE#16 0x6001).mem.read 0xFFE).toNat * 256 + ((loadedAt 0xFFE#16 0x6001).mem.read 0xFFF).toNat)) =
      .ok (.ldByte 0x0#4 0x01#8) := by decide
theorem witness_FetchPastMemoryFaults : (State.reset.setPc 0xFFF#16).mode = .running ∧
    0xFFE < (State.reset.setPc 0xFFF#16).pc.toNat := by decide
theorem witness_UnknownWordsAndSysAreNoOps : (loadedAt 0xFFE#16 0x8008).mode = .running ∧
    (loadedAt 0xFFE#16 0x8008).pc.toNat ≤ 0xFFE ∧
    decode (loadedAt 0xFFE#16 0x8008).params.zeroMatch (BitVec.ofNat 16
      (((loadedAt 0xFFE#16 0x8008).mem.read 0xFFE).toNat * 256 + ((loadedAt 0xFFE#16 0x8008).mem.read 0xFFF).toNat)) =
      .error .unknownInFamily8 := by decide
theorem witness_WaitingMachineIgnoresSteps :
    (State.reset.setMode (.waitingForKey 0xF#4)).mode = .waitingForKey 0xF#4 ∧ 15 ≤ 15 := by decide
theorem witness_FaultedMachineStaysAsItIs :
    (State.reset.setMode (.faulted (.stackUnderflow 0x200#16 0x00EE#16))).mode =
      .faulted (.stackUnderflow 0x200#16 0x00EE#16) ∧ 15 ≤ 15 := by decide
theorem witness_AddByteWrapsWithoutFlag :
    (0x00#8).toNat = (((State.reset.setV 0xF#4 0xFF#8).getV 0xF#4).toNat + (0x01#8).toNat) % 256 := by decide

theorem witness_AddRegisterCarries : (0xE#4 ≠ 0xF#4) ∧ State.reset.params.vfOrder = .flagLast ∧
    (State.reset.withVfOrder .resultLast).params.vfOrder = .resultLast := by decide
theorem witness_SubSaturates : (0xE#4 ≠ 0xF#4) ∧ State.reset.params.vfOrder = .flagLast ∧
    (State.reset.withVfOrder .resultLast).params.vfOrder = .resultLast := by decide
theorem witness_SubnSaturates : (0xE#4 ≠ 0xF#4) ∧ State.reset.params.vfOrder = .flagLast ∧
    (State.reset.withVfOrder .resultLast).params.vfOrder = .resultLast := by decide
theorem witness_ShrHalves : (0xE#4 ≠ 0xF#4) ∧ State.reset.params.vfOrder = .flagLast ∧
    (State.reset.withVfOrder .resultLast).params.vfOrder = .resultLast := by decide
theorem witness_ShlDoubles : (0xE#4 ≠ 0xF#4) ∧ State.reset.params.vfOrder = .flagLast ∧
    (State.reset.withVfOrder .resultLast).params.vfOrder = .resultLast := by decide
theorem witness_VfOrderMattersOnlyForItsOwnCase : (¬ (Instr.addReg 0xE#4 0xF#4).flagIntoItself) ∧
    ∃ t, exec (.addReg 0xE#4 0xF#4) State.reset = .next t := ⟨by simp [Instr.flagIntoItself], _, rfl⟩
theorem witness_CallPushesReturnAddress : ({ State.reset with sp := 15 } : State).sp.val < 16 := by decide
theorem witness_RetPopsReturnAddress : ({ State.reset with sp := 16 } : State).sp.val = 15 + 1 ∧
    ({ State.reset with sp := 1 } : State).sp.val = 0 + 1 := by decide
theorem witness_StackFaults : ({ State.reset with sp := 16 } : State).sp.val = 16 ∧ State.reset.sp.val = 0 := by decide
theorem witness_CallThenRetReturns : ({ State.reset with sp := 15 } : State).sp.val < 16 := by decide
theorem witness_StackEntriesAboveSpAreNotObservable :
    SameBelowSp { State.reset with sp := 1 } { State.reset with sp := 1, stack := State.reset.stack.set 1 0xFFFF#16 } ∧
      ∃ t, step { State.reset with sp := 1 } = .next t := by
  refine ⟨⟨rfl, fun j h hj => ?_⟩, _, rfl⟩
  have : j < 1 := hj
  simp [Vector.getElem_set]
  omega
theorem witness_KeySkipsTestTheKey : ((State.reset.setV 0x3#4 0x0F#8).getV 0x3#4).toNat = (0xF#4).toNat := by decide
theorem witness_KeyIndexAboveFifteen : 15 < ((State.reset.setV 0x3#4 0x10#8).getV 0x3#4).toNat ∧
    (State.reset.setV 0x3#4 0x10#8).params.keyIndexOor = .fault ∧
    15 < (((withParams { defaultParams with keyIndexOor := .lowNibble }).setV 0x3#4 0x1F#8).getV 0x3#4).toNat ∧
    ((withParams { defaultParams with keyIndexOor := .lowNibble }).setV 0x3#4 0x1F#8).params.keyIndexOor =
      .lowNibble ∧ (0xF#4).toNat = 0x1F % 16 := by decide
theorem witness_AddToIndexIsUnmasked : ((State.reset.setI 0xFF00#16).setV 0x3#4 0xFF#8).i.toNat +
    (((State.reset.setI 0xFF00#16).setV 0x3#4 0xFF#8).getV 0x3#4).toNat ≤ 0xFFFF := by decide
theorem witness_AddToIndexPastSixteenBits : 0xFFFF < ((State.reset.setI 0xFFFF#16).setV 0x3#4 0x01#8).i.toNat +
      (((State.reset.setI 0xFFFF#16).setV 0x3#4 0x01#8).getV 0x3#4).toNat ∧
    State.reset.params.iOverflow = .fault ∧
    (withParams { defaultParams with iOverflow := .wrap }).params.iOverflow = .wrap := by decide
theorem witness_FontGlyphAddress : State.reset.params.fontIndex = .unmasked ∧
    (withParams { defaultParams with fontIndex := .lowNibble, fontBase := 432 }).params.fontIndex = .lowNibble := by
  decide
theorem witness_BcdStoresDigits : (State.reset.setI 0xFFD#16).i.toNat + 2 ≤ 0xFFF := by decide
theorem witness_BlockStoreWritesRegisters : (State.reset.setI 0xFF0#16).i.toNat + (0xF#4).toNat ≤ 0xFFF := by decide
theorem witness_BlockLoadReadsRegisters : (State.reset.setI 0xFF0#16).i.toNat + (0xF#4).toNat ≤ 0xFFF := by decide
theorem witness_MemoryFormsFaultPastMemory : 0xFFF < (State.reset.setI 0xFFE#16).i.toNat + 2 ∧
    0xFFF < (State.reset.setI 0xFF1#16).i.toNat + (0xF#4).toNat ∧
    1 ≤ (0x1#4).toNat ∧ 0xFFF < (State.reset.setI 0x1000#16).i.toNat + ((0x1#4).toNat - 1) := by decide
theorem witness_StoredWordIsTheNextFetched :
    ((State.reset.setPc 0xFFE#16).setI 0xFFE#16).mode = .running ∧
    ((State.reset.setPc 0xFFE#16).setI 0xFFE#16).i = ((State.reset.setPc 0xFFE#16).setI 0xFFE#16).pc ∧
    1 ≤ (0x1#4).toNat ∧ ((State.reset.setPc 0xFFE#16).setI 0xFFE#16).i.toNat + (0x1#4).toNat ≤ 0xFFF ∧
    decode .lowByte (BitVec.ofNat 16 (0x00 * 256 + 0x00)) = .ok (.sys 0x000#12) := by decide
theorem witness_DrawXorsTheSprite : (0x0#4).toNat = 0 ∧
    (State.reset.setI 0xFF1#16).i.toNat + (0xF#4).toNat ≤ 0x1000 := by decide
theorem witness_CollisionFlag : (0x0#4).toNat = 0 ∧
    (State.reset.setI 0xFF1#16).i.toNat + (0xF#4).toNat ≤ 0x1000 := by decide
theorem witness_DrawTwiceRestoresDisplay : (0xE#4 ≠ 0xF#4) ∧ (0x0#4 ≠ 0xF#4) ∧ (0x0#4).toNat = 0 ∧
    (State.reset.setI 0xFF1#16).i.toNat + (0xF#4).toNat ≤ 0x1000 := by decide
theorem witness_TickCountsDown : ∀ f, State.reset.mode ≠ .faulted f := by simp [State.reset]
theorem witness_SetKeySetsOneKey : (∀ f, State.reset.mode ≠ .faulted f) ∧ 15 < 16 := ⟨by simp [State.reset], by decide⟩
theorem witness_KeyPressEndsTheWait : (State.reset.setMode (.waitingForKey 0xF#4)).mode = .waitingForKey 0xF#4 ∧
    State.reset.mode = .running ∧ 15 < 16 := by decide
theorem witness_InstructionsWriteOnlyTheirRegisters : (¬ (Instr.ldVxMem 0xE#4).mayWrite 0xF#4) ∧
    ∃ t, exec (.ldVxMem 0xE#4) State.reset = .next t := ⟨by simp [Instr.mayWrite], _, rfl⟩
theorem witness_InstructionsChangeOnlyTheirParts : ∃ t, exec (.ldMemVx 0xF#4) (State.reset.setI 0xFF0#16) = .next t :=
  ⟨_, rfl⟩
theorem witness_FaultsComeFromTheirInstructions : State.reset.mode = .running ∧
    ∃ t, exec (.drw 0x0#4 0x0#4 0x1#4) (State.reset.setI 0x1000#16) = .next t ∧
      t.mode = .faulted (.memoryOutOfRange .read 0x1000 0x1FE#16 (some 0xD001#16)) := ⟨rfl, _, rfl, by decide⟩
theorem witness_ModeChangesOnlyByKeyWaitOrFault : (loaded 0xF30A).mode = .running ∧
    nextHas (step (loaded 0xF30A)) (fun t => t.mode == .waitingForKey 0x3#4) = true := by decide
theorem witness_StepKeepsInvariant : (State.reset.setPc 0x10FE#16).Inv ∧
    ∃ t, step (State.reset.setPc 0x10FE#16) = .next t :=
  ⟨⟨Memory.wf_nil, by decide, fun j _ h => absurd h (Nat.not_lt_zero j)⟩, _, rfl⟩
theorem witness_StepKeepsInvariant_stack :
    ({ State.reset with sp := 16, stack := Vector.replicate 16 0x1000#16 } : State).Inv :=
  ⟨Memory.wf_nil, by decide, fun j h _ => by simp⟩
theorem witness_RunsKeepInvariant : (State.reset.setPc 0x10FE#16).Inv ∧
    ∃ t, actAll [.tick, .setKey 15 true, .keyPress 0] (State.reset.setPc 0x10FE#16) = .next t :=
  ⟨witness_StepKeepsInvariant.1, _, rfl⟩
theorem witness_BootLaysOutMemory : (List.replicate 80 0xFF#8).length = 80 ∧
    (List.replicate 0xE00 0xFF#8).length ≤ 0xE00 ∧ (0x10FE#16).toNat ≤ 0x10FE :=
  ⟨List.length_replicate, List.length_replicate.le, by decide⟩
theorem witness_IdleIsAFixedPoint : (loadedAt 0xFFE#16 0x1FFE).idleAt 0xFFE#12 := by
  refine ⟨?_, ?_, ?_, ?_⟩ <;> decide


end Sys2Proof.Tests
end

section
/-! PROOFS. Instructions that write a result and a flag (00_scope.md R14): the shape of their outcome, once, and the
two shifts (43_alu.md R169, R171). -/

namespace Sys2Proof.Machine

open Config

section WriteWithFlag

variable (s : State) (x : RegIx) (r g : Byte)

theorem regsSameExcept_writeWithFlag : RegsSameExcept [x, vfIx] s (s.writeWithFlag x r g) := by
  intro j hj
  obtain ⟨hx, hf⟩ : j ≠ x ∧ j ≠ vfIx := by simpa using hj
  rw [State.getV_writeWithFlag, if_neg fun h => hx h.1, if_neg hf]

theorem State.getV_writeWithFlag_result {x : RegIx} (h : x ≠ vfIx ∨ s.params.vfOrder = .resultLast) :
    (s.writeWithFlag x r g).getV x = r := by
  rw [State.getV_writeWithFlag, if_pos ⟨rfl, h⟩]

theorem State.getV_writeWithFlag_flag {x : RegIx} (h : x ≠ vfIx ∨ s.params.vfOrder = .flagLast) :
    (s.writeWithFlag x r g).getV vfIx = g := by
  rw [State.getV_writeWithFlag, if_neg, if_pos rfl]
  rintro ⟨hx, hne | hr⟩
  · exact hne hx.symm
  · rcases h with h | h
    · exact h hx.symm
    · rw [h] at hr
      contradiction

end WriteWithFlag

/-- An instruction whose meaning is one `writeWithFlag` has the outcome that R14 describes. -/
theorem writesResultAndFlag_of_exec {i : Instr} {s : State} {x : RegIx} {r g : Byte}
    (h : exec i s = .next (s.writeWithFlag x r g)) : WritesResultAndFlag i s x r.toNat g.toNat := by
  refine ⟨_, h, regsSameExcept_writeWithFlag s x r g, sameExcept_writeWithFlag s x r g, fun hx => ⟨?_, ?_⟩, ?_, ?_⟩
  · rw [State.getV_writeWithFlag_result s r g (.inl hx)]
  · exact congrArg BitVec.toNat (State.getV_writeWithFlag_flag s r g (.inl hx))
  · intro _ hp
    exact congrArg BitVec.toNat (State.getV_writeWithFlag_flag s r g (.inr hp))
  · rintro rfl hp
    rw [State.getV_writeWithFlag_result s r g (.inr hp)]

theorem exec_shr (s : State) (x y : RegIx) : exec (.shr x y) s =
    .next (s.writeWithFlag x (halfByte (s.getV x)) (lowBitFlag (s.getV x))) := rfl

theorem exec_shl (s : State) (x y : RegIx) : exec (.shl x y) s =
    .next (s.writeWithFlag x (doubleByte (s.getV x)) (highBitFlag (s.getV x))) := rfl

/-- Settles O18: the shift is one write of a result and a flag, with the values of `halfByte` and `lowBitFlag`. -/
theorem shrHalves : Obligations.ShrHalves := by
  intro s x y
  rw [← halfByte_toNat, ← lowBitFlag_toNat]
  exact writesResultAndFlag_of_exec (exec_shr s x y)

/-- Settles O19: the shift is one write of a result and a flag, with the values of `doubleByte` and `highBitFlag`. -/
theorem shlDoubles : Obligations.ShlDoubles := by
  intro s x y
  rw [← doubleByte_toNat, ← highBitFlag_toNat]
  exact writesResultAndFlag_of_exec (exec_shl s x y)

end Sys2Proof.Machine
end

section
/-! PROOFS. The digit whose glyph `LD F, Vx` names under each `FONT_INDEX`, and the address it leaves in `I`
(44_index_timer_memory.md R196). -/

namespace Sys2Proof.Machine

open Config

theorem fontDigit_unmasked {p : Params} (h : p.fontIndex = .unmasked) (b : Byte) : fontDigit p b = b.toNat := by
  rw [fontDigit, h]

theorem fontDigit_lowNibble {p : Params} (h : p.fontIndex = .lowNibble) (b : Byte) :
    fontDigit p b = b.toNat % 16 := by
  rw [fontDigit, h]

theorem exec_ldF (s : State) (x : RegIx) :
    exec (.ldF x) s = .next (s.setI (glyphAddress s.params (s.getV x))) := rfl

/-- Settles O37: the glyph's address does not wrap, and each `FONT_INDEX` gives its digit. -/
theorem fontGlyphAddress : Obligations.FontGlyphAddress := by
  intro s x
  have hi : (s.setI (glyphAddress s.params (s.getV x))).i.toNat =
      s.params.fontBase.val + 5 * fontDigit s.params (s.getV x) := by
    rw [State.setI_i, glyphAddress_toNat]
  refine ⟨_, exec_ldF s x, fun h => ?_, fun h => ?_, sameExcept_setI s _⟩
  · rw [hi, fontDigit_unmasked h]
  · rw [hi, fontDigit_lowNibble h]

end Sys2Proof.Machine
end

section
/-! PROOFS. What an instruction can do: it raises a fault, which writes the run state alone, or it completes and changes
its own parts. From this the frame of every instruction and the ways a step leaves `Running`. -/

namespace Sys2Proof.Machine

/-! ### Frames of the updates that belong to one instruction -/

section Frames

variable (s : State)

theorem sameExcept_self (ps : List Part) : SameExcept ps s s := by
  intro p _; cases p <;> simp [Same]

theorem sameExcept_setDt (b : Byte) : SameExcept [.dt] s (s.setDt b) := by
  intro p hp; cases p <;> simp_all [Same, State.key, State.pixel]

theorem sameExcept_setSt (b : Byte) : SameExcept [.st] s (s.setSt b) := by
  intro p hp; cases p <;> simp_all [Same, State.key, State.pixel]

theorem sameExcept_clear (e : Event) :
    SameExcept [.display, .events] s ({ s with display := blankDisplay }.emit e) := by
  intro p hp; cases p <;> simp_all [Same, State.getV, State.key]

theorem sameExcept_drawByte (x : RegIx) (b : Byte) : SameExcept [.v, .draws] s (s.setV x b).countDraw := by
  intro p hp; cases p <;> simp_all [Same, State.key, State.pixel]

theorem sameExcept_enterWait (m : Mode) (e : Event) : SameExcept [.mode, .events] s ((s.setMode m).emit e) := by
  intro p hp; cases p <;> simp_all [Same, State.key, State.pixel]

theorem sameExcept_push (st : Vector Word 16) (n : Fin 17) (w : Word) :
    SameExcept [.pc, .sp, .stack] s { s with stack := st, sp := n, pc := w } := by
  intro p hp; cases p <;> simp_all [Same, State.getV, State.key, State.pixel]

theorem sameExcept_pop (n : Fin 17) (w : Word) : SameExcept [.pc, .sp] s { s with pc := w, sp := n } := by
  intro p hp; cases p <;> simp_all [Same, State.getV, State.key, State.pixel]

end Frames

/-! ### Everything that the instructions with more than one outcome can do -/

theorem skipOnKey_cases {s t : State} {op : Word} {x : RegIx} {down : Bool}
    (h : skipOnKey op x down s = .next t) :
    (∃ k, keyIndex s.params (s.getV x) = some k ∧ t = s.skipIf (s.key k == down)) ∨
      (keyIndex s.params (s.getV x) = none ∧
        t = s.setMode (.faulted (.keyIndexOutOfRange s.instrPc op (s.getV x)))) := by
  cases hk : keyIndex s.params (s.getV x) with
  | some k =>
    rw [skipOnKey_some hk] at h
    exact .inl ⟨k, rfl, (Host.Outcome.next.inj h).symm⟩
  | none =>
    rw [skipOnKey_none hk] at h
    exact .inr ⟨rfl, (Host.Outcome.next.inj h).symm⟩

theorem exec_addI_cases {s t : State} {x : RegIx} (h : exec (.addI x) s = .next t) :
    ((s.i.toNat + (s.getV x).toNat ≤ 0xFFFF ∨ s.params.iOverflow = .wrap) ∧
      t = s.setI (s.i + zextByte (s.getV x))) ∨
    (0xFFFF < s.i.toNat + (s.getV x).toNat ∧ s.params.iOverflow = .fault ∧
      t = s.setMode (.faulted (.indexOverflow s.instrPc (encode (.addI x)) s.i (s.getV x)))) := by
  by_cases hf : s.i.toNat + (s.getV x).toNat ≤ 0xFFFF
  · rw [exec_addI_fits hf] at h
    exact .inl ⟨.inl hf, (Host.Outcome.next.inj h).symm⟩
  · have hf : 0xFFFF < s.i.toNat + (s.getV x).toNat := by omega
    cases hp : s.params.iOverflow with
    | fault =>
      rw [exec_addI_faults hf hp] at h
      exact .inr ⟨hf, rfl, (Host.Outcome.next.inj h).symm⟩
    | wrap =>
      rw [exec_addI_wraps hp] at h
      exact .inl ⟨.inr rfl, (Host.Outcome.next.inj h).symm⟩

theorem exec_call_cases {s t : State} {nnn : Addr} (h : exec (.call nnn) s = .next t) :
    (∃ hsp : s.sp.val < 16, t =
      { s with stack := s.stack.set s.sp.val s.pc hsp, sp := ⟨s.sp.val + 1, by omega⟩, pc := zextAddr nnn }) ∨
      (s.sp.val = 16 ∧ t = s.setMode (.faulted (.stackOverflow s.instrPc (encode (.call nnn))))) := by
  by_cases hsp : s.sp.val < 16
  · rw [exec_call_push hsp] at h
    exact .inl ⟨hsp, (Host.Outcome.next.inj h).symm⟩
  · have hsp : s.sp.val = 16 := by omega
    rw [exec_call_full hsp] at h
    exact .inr ⟨hsp, (Host.Outcome.next.inj h).symm⟩

theorem exec_ret_cases {s t : State} {x : Nibble} (h : exec (.ret x) s = .next t) :
    (∃ hsp : 0 < s.sp.val, t =
      { s with pc := s.stack[s.sp.val - 1]'(by omega), sp := ⟨s.sp.val - 1, by omega⟩ }) ∨
      (s.sp.val = 0 ∧ t = s.setMode (.faulted (.stackUnderflow s.instrPc (encode (.ret x))))) := by
  by_cases hsp : 0 < s.sp.val
  · rw [exec_ret_pop hsp] at h
    exact .inl ⟨hsp, (Host.Outcome.next.inj h).symm⟩
  · have hsp : s.sp.val = 0 := by omega
    rw [exec_ret_empty hsp] at h
    exact .inr ⟨hsp, (Host.Outcome.next.inj h).symm⟩

/-- A checked access faults or does what it was to do. -/
theorem checkedAccess_sameExcept {kind : AccessKind} {op : Word} {count : Nat} {s done t : State} {ps : List Part}
    (h : checkedAccess kind op count s done = .next t) (hd : SameExcept ps s done) :
    SameExcept ps s t ∨ ∃ f, t = s.setMode (.faulted f) := by
  rcases checkedAccess_cases h with ⟨_, rfl⟩ | ⟨_, _, rfl⟩
  · exact .inl hd
  · exact .inr ⟨_, rfl⟩

theorem skipOnKey_sameExcept {s t : State} {op : Word} {x : RegIx} {down : Bool}
    (h : skipOnKey op x down s = .next t) :
    SameExcept [.pc] s t ∨ ∃ f, t = s.setMode (.faulted f) := by
  rcases skipOnKey_cases h with ⟨_, _, rfl⟩ | ⟨_, rfl⟩
  · exact .inl (sameExcept_skipIf s _)
  · exact .inr ⟨_, rfl⟩

/-! ### Every instruction -/

/-- The parts an instruction that completes may change: apart from faults, only `LD Vx, K` changes the run state
(10_state.md R33). -/
def partsOfCompletion : Instr → List Part
  | .ldVxK _ => [.mode, .events]
  | i => i.mayChange.erase .mode

theorem partsOfCompletion_subset (i : Instr) : partsOfCompletion i ⊆ i.mayChange := by
  unfold partsOfCompletion
  split
  · exact List.Subset.refl _
  · exact List.erase_subset

/-- Everything an instruction can do to the parts of the state: it completes and changes its own parts, or it enters a
fault and changes nothing else. -/
theorem exec_completes_or_faults {i : Instr} {s t : State} (h : exec i s = .next t) :
    SameExcept (partsOfCompletion i) s t ∨ (.mode ∈ i.mayChange ∧ ∃ f, t = s.setMode (.faulted f)) := by
  cases i with
  | sys nnn => cases h; exact .inl (sameExcept_self s _)
  | cls x => cases h; exact .inl (sameExcept_clear s _)
  | ret x =>
    rcases exec_ret_cases h with ⟨_, rfl⟩ | ⟨_, rfl⟩
    · exact .inl (sameExcept_pop s _ _)
    · exact .inr ⟨by simp [Instr.mayChange], _, rfl⟩
  | call nnn =>
    rcases exec_call_cases h with ⟨_, rfl⟩ | ⟨_, rfl⟩
    · exact .inl (sameExcept_push s _ _ _)
    · exact .inr ⟨by simp [Instr.mayChange], _, rfl⟩
  | jp nnn | jpV0 nnn => cases h; exact .inl (sameExcept_setPc s _)
  | seByte x kk | sneByte x kk | seReg x y n | sneReg x y n => cases h; exact .inl (sameExcept_skipIf s _)
  | ldByte x kk | addByte x kk | ldReg x y | orReg x y | andReg x y | xorReg x y | ldVxDt x =>
    cases h; exact .inl (sameExcept_setV s x _)
  | addReg x y | sub x y | shr x y | subn x y | shl x y => cases h; exact .inl (sameExcept_writeWithFlag s x _ _)
  | ldI nnn | ldF x => cases h; exact .inl (sameExcept_setI s _)
  | rnd x kk => cases h; exact .inl (sameExcept_drawByte s x _)
  | drw x y n =>
    exact (checkedAccess_sameExcept h (sameExcept_drawAt s _)).imp_right fun hf => ⟨by simp [Instr.mayChange], hf⟩
  | skp x | sknp x => exact (skipOnKey_sameExcept h).imp_right fun hf => ⟨by simp [Instr.mayChange], hf⟩
  | ldVxK x => cases h; exact .inl (sameExcept_enterWait s _ _)
  | ldDtVx x => cases h; exact .inl (sameExcept_setDt s _)
  | ldStVx x => cases h; exact .inl (sameExcept_setSt s _)
  | addI x =>
    rcases exec_addI_cases h with ⟨_, rfl⟩ | ⟨_, _, rfl⟩
    · exact .inl (sameExcept_setI s _)
    · exact .inr ⟨by simp [Instr.mayChange], _, rfl⟩
  | ldB x | ldMemVx x =>
    exact (checkedAccess_sameExcept h (sameExcept_storeBytes s _ _)).imp_right fun hf =>
      ⟨by simp [Instr.mayChange], hf⟩
  | ldVxMem x =>
    exact (checkedAccess_sameExcept h (sameExcept_loadRegs s _ _)).imp_right fun hf => ⟨by simp [Instr.mayChange], hf⟩

/-- Settles O52: a completed instruction changes its own parts, and a fault changes the run state alone. -/
theorem instructionsChangeOnlyTheirParts : Obligations.InstructionsChangeOnlyTheirParts := by
  intro i s t h
  rcases exec_completes_or_faults h with hc | ⟨hm, f, rfl⟩
  · exact hc.mono (partsOfCompletion_subset i)
  · exact (sameExcept_setMode s _).mono (by simpa using hm)

/-- Only `LD Vx, K` changes the run state when it completes. -/
theorem mode_mem_partsOfCompletion {i : Instr} (h : .mode ∈ partsOfCompletion i) : ∃ x, i = .ldVxK x := by
  cases i <;> simp_all [partsOfCompletion, Instr.mayChange]

/-- Everything an instruction can do to the run state. -/
theorem exec_mode_cases {i : Instr} {s t : State} (h : exec i s = .next t) :
    t.mode = s.mode ∨ (∃ x, i = .ldVxK x ∧ t.mode = .waitingForKey x) ∨ ∃ f, t.mode = .faulted f := by
  rcases exec_completes_or_faults h with hc | ⟨_, f, rfl⟩
  · by_cases hm : .mode ∈ partsOfCompletion i
    · obtain ⟨x, rfl⟩ := mode_mem_partsOfCompletion hm
      cases h
      exact .inr (.inl ⟨x, rfl, rfl⟩)
    · exact .inl (hc .mode hm)
  · exact .inr (.inr ⟨f, rfl⟩)

/-- Settles O54: a fetch fault and an instruction's fault are faults, an unknown word keeps the run state, and of the
instructions that complete only `LD Vx, K` changes it. -/
theorem modeChangesOnlyByKeyWaitOrFault : Obligations.ModeChangesOnlyByKeyWaitOrFault := by
  intro s t hrun h
  rw [← wordOfBytes_eq_ofNat]
  rcases step_cases s with ⟨hm, _⟩ | ⟨_, _, he⟩ | ⟨_, _, r, _, he⟩ | ⟨_, _, i, hd, he⟩
  · exact absurd hrun hm
  · cases he.symm.trans h
    exact .inr (.inr ⟨_, rfl⟩)
  · cases he.symm.trans h
    exact .inl hrun
  · rcases exec_mode_cases (he.symm.trans h) with hm | ⟨x, rfl, hm⟩ | hf
    · exact .inl (hm.trans hrun)
    · exact .inr (.inl ⟨x, hm, hd⟩)
    · exact .inr (.inr hf)

end Sys2Proof.Machine
end

section
/-! PROOFS. The invariant of the machine (10_state.md R25, R34, 20_memory.md R55): what an instruction can do to memory,
to `pc` and to the return stack, and that each of these keeps its part of the invariant. -/

namespace Sys2Proof.Machine

/-! ### What an instruction can do to memory, `pc` and the return stack -/

/-- A checked store of a block from `I` on stores it where memory exists, or leaves memory alone. -/
theorem checkedAccess_store_mem {kind : AccessKind} {op : Word} {count : Nat} {s t : State} {bs : List Byte}
    (hl : bs.length = count) (h : checkedAccess kind op count s (s.storeBytes s.i.toNat bs) = .next t) :
    t.mem = s.mem ∨ ∃ cs, s.i.toNat + cs.length ≤ 0x1000 ∧ t.mem = s.mem.writeBytes s.i.toNat cs := by
  rcases checkedAccess_cases h with ⟨rfl | hr, rfl⟩ | ⟨_, _, rfl⟩
  · rw [List.length_eq_zero_iff.mp hl]
    exact .inl rfl
  · exact .inr ⟨bs, by omega, rfl⟩
  · exact .inl rfl

theorem checkedAccess_mem {kind : AccessKind} {op : Word} {count : Nat} {s done t : State}
    (h : checkedAccess kind op count s done = .next t) (hd : done.mem = s.mem) : t.mem = s.mem := by
  rcases checkedAccess_cases h with ⟨_, rfl⟩ | ⟨_, _, rfl⟩
  · exact hd
  · rfl

theorem skipOnKey_mem {s t : State} {op : Word} {x : RegIx} {down : Bool} (h : skipOnKey op x down s = .next t) :
    t.mem = s.mem := by
  rcases skipOnKey_cases h with ⟨k, _, rfl⟩ | ⟨_, rfl⟩
  · exact State.skipIf_mem s _
  · rfl

/-- Everything an instruction can do to memory: nothing, or a block written inside the address space. -/
theorem exec_mem_cases {i : Instr} {s t : State} (h : exec i s = .next t) :
    t.mem = s.mem ∨ ∃ bs, s.i.toNat + bs.length ≤ 0x1000 ∧ t.mem = s.mem.writeBytes s.i.toNat bs := by
  cases i with
  | ldB x => exact checkedAccess_store_mem (length_bcdDigits _) h
  | ldMemVx x => exact checkedAccess_store_mem (State.length_regsUpTo s x) h
  | ldVxMem x => exact .inl (checkedAccess_mem h (State.loadRegs_mem s _ x))
  | drw x y n => exact .inl (checkedAccess_mem h (State.drawAt_mem s _))
  | skp x | sknp x => exact .inl (skipOnKey_mem h)
  | addI x => rcases exec_addI_cases h with ⟨_, rfl⟩ | ⟨_, _, rfl⟩ <;> exact .inl rfl
  | ret x => rcases exec_ret_cases h with ⟨_, rfl⟩ | ⟨_, rfl⟩ <;> exact .inl rfl
  | call nnn => rcases exec_call_cases h with ⟨_, rfl⟩ | ⟨_, rfl⟩ <;> exact .inl rfl
  | addReg x y | sub x y | shr x y | subn x y | shl x y => cases h; exact .inl (State.writeWithFlag_mem s x _ _)
  | seByte x kk | sneByte x kk | seReg x y n | sneReg x y n => cases h; exact .inl (State.skipIf_mem s _)
  | _ => cases h; exact .inl rfl

theorem skipIf_pc_cases (s : State) (b : Bool) : (s.skipIf b).pc = s.pc ∨ (s.skipIf b).pc = s.pc + 2#16 := by
  cases b
  · exact .inl rfl
  · exact .inr rfl

theorem jpV0_target_le (nnn : Addr) (b : Byte) : (zextAddr nnn + zextByte b).toNat ≤ 0xFFF + 0xFF := by
  have hn := nnn.isLt
  have hb := b.isLt
  rw [BitVec.toNat_add, zextAddr_toNat, zextByte_toNat]
  omega

/-- Everything an instruction can do to `pc` (10_state.md R25): keep it, skip a word, jump, or return. -/
theorem exec_pc_cases {i : Instr} {s t : State} (h : exec i s = .next t) :
    (t.pc = s.pc ∨ t.pc = s.pc + 2#16) ∨ t.pc.toNat ≤ 0xFFF + 0xFF ∨
      ∃ hsp : 0 < s.sp.val, t.pc = s.stack[s.sp.val - 1]'(by omega) := by
  by_cases hp : .pc ∈ i.mayChange
  · cases i with
    | jp nnn =>
      cases h
      have := nnn.isLt
      exact .inr (.inl (by simp; omega))
    | jpV0 nnn => cases h; exact .inr (.inl (jpV0_target_le nnn _))
    | call nnn =>
      rcases exec_call_cases h with ⟨_, rfl⟩ | ⟨_, rfl⟩
      · have := nnn.isLt
        exact .inr (.inl (by simp; omega))
      · exact .inl (.inl rfl)
    | ret x =>
      rcases exec_ret_cases h with ⟨hsp, rfl⟩ | ⟨_, rfl⟩
      · exact .inr (.inr ⟨hsp, rfl⟩)
      · exact .inl (.inl rfl)
    | seByte x kk | sneByte x kk | seReg x y n | sneReg x y n => cases h; exact .inl (skipIf_pc_cases s _)
    | skp x | sknp x =>
      rcases skipOnKey_cases h with ⟨k, _, rfl⟩ | ⟨_, rfl⟩
      · exact .inl (skipIf_pc_cases s _)
      · exact .inl (.inl rfl)
    | _ => simp [Instr.mayChange] at hp
  · exact .inl (.inl (instructionsChangeOnlyTheirParts i s t h .pc hp))

/-- An instruction other than `CALL` and `RET` keeps the return stack (10_state.md R26, R27). -/
theorem exec_keeps_stack {i : Instr} {s t : State} (h : exec i s = .next t) (hi : .sp ∉ i.mayChange) :
    t.stack = s.stack ∧ t.sp = s.sp := by
  have hs : .stack ∉ i.mayChange := by cases i <;> simp_all [Instr.mayChange]
  exact ⟨instructionsChangeOnlyTheirParts i s t h .stack hs, instructionsChangeOnlyTheirParts i s t h .sp hi⟩

/-- Everything an instruction can do to the return stack: keep its entries and push nothing, or push `pc`. -/
theorem exec_stack_cases {i : Instr} {s t : State} (h : exec i s = .next t) :
    (t.stack = s.stack ∧ t.sp.val ≤ s.sp.val) ∨
      ∃ hsp : s.sp.val < 16, t.stack = s.stack.set s.sp.val s.pc hsp ∧ t.sp.val = s.sp.val + 1 := by
  by_cases hi : .sp ∈ i.mayChange
  · cases i with
    | call nnn =>
      rcases exec_call_cases h with ⟨hsp, rfl⟩ | ⟨_, rfl⟩
      · exact .inr ⟨hsp, rfl, rfl⟩
      · exact .inl ⟨rfl, le_rfl⟩
    | ret x =>
      rcases exec_ret_cases h with ⟨_, rfl⟩ | ⟨_, rfl⟩
      · exact .inl ⟨rfl, Nat.sub_le _ _⟩
      · exact .inl ⟨rfl, le_rfl⟩
    | _ => simp [Instr.mayChange] at hi
  · obtain ⟨hst, hsp⟩ := exec_keeps_stack h hi
    exact .inl ⟨hst, by rw [hsp]⟩

/-! ### Each part of the invariant -/

theorem exec_keeps_mem_wf {i : Instr} {s t : State} (h : exec i s = .next t) (hm : s.mem.wf) : t.mem.wf := by
  rcases exec_mem_cases h with he | ⟨bs, hb, he⟩
  · rwa [he]
  · rw [he]
    exact Memory.wf_writeBytes bs hm hb

/-- Every return address in use is at most 0x1000. -/
def State.StackBounded (s : State) : Prop :=
  ∀ (j : Nat) (h : j < 16), j < s.sp.val → (s.stack[j]'h).toNat ≤ 0x1000

theorem exec_pc_le {i : Instr} {s t : State} (h : exec i s = .next t) (hpc : s.pc.toNat ≤ 0x1000)
    (hs : s.StackBounded) : t.pc.toNat ≤ 0x10FE := by
  rcases exec_pc_cases h with (he | he) | hle | ⟨hsp, he⟩
  · rw [he]; omega
  · rw [he, BitVec.toNat_add, BitVec.toNat_ofNat]; omega
  · exact hle
  · rw [he]
    exact (hs _ (by omega) (by omega)).trans (by decide)

theorem exec_keeps_stackBounded {i : Instr} {s t : State} (h : exec i s = .next t) (hpc : s.pc.toNat ≤ 0x1000)
    (hs : s.StackBounded) : t.StackBounded := by
  intro j hj hjt
  rcases exec_stack_cases h with ⟨hst, hle⟩ | ⟨hsp, hst, heq⟩
  · simp only [hst]
    exact hs j hj (by omega)
  · simp only [hst, Vector.getElem_set]
    split
    · exact hpc
    · exact hs j hj (by omega)

theorem exec_inv {i : Instr} {s t : State} (h : exec i s = .next t) (hm : s.mem.wf) (hpc : s.pc.toNat ≤ 0x1000)
    (hs : s.StackBounded) : t.Inv :=
  ⟨exec_keeps_mem_wf h hm, exec_pc_le h hpc hs, exec_keeps_stackBounded h hpc hs⟩

/-- Settles O55: a fetch only happens at a `pc` up to 0xFFE, so an instruction runs at a `pc` up to 0x1000, and from
there it keeps each part of the invariant. -/
theorem stepKeepsInvariant : Obligations.StepKeepsInvariant := by
  rintro s t ⟨hm, hpc, hs⟩ h
  rcases step_cases s with ⟨_, he⟩ | ⟨_, _, he⟩ | ⟨_, hp, r, _, he⟩ | ⟨_, hp, i, _, he⟩
  · cases he.symm.trans h
    exact ⟨hm, hpc, hs⟩
  · cases he.symm.trans h
    exact ⟨hm, hpc, hs⟩
  · cases he.symm.trans h
    exact ⟨hm, by rw [advancePc_toNat hp]; omega, hs⟩
  · exact exec_inv (he.symm.trans h) hm (by rw [advancePc_toNat hp]; omega) hs

/-- Settles O56: at reset memory lists nothing, `pc` is 0x200 and no return address is on the stack. -/
theorem resetMeetsInvariant : Obligations.ResetMeetsInvariant :=
  ⟨Memory.wf_nil, by decide, fun j _ hj => absurd hj (Nat.not_lt_zero j)⟩

end Sys2Proof.Machine
end

section
/-! PROOFS. Stack entries not in use are not observable (10_state.md R27, 93_implementation_defined.md I17): no
instruction but `CALL` and `RET` reads or writes an entry, `CALL` writes the first one not in use, and `RET` reads the
last one in use. -/

namespace Sys2Proof.Machine

/-! ### The state with other stack entries -/

/-- The state with the entries `st` on its return stack. -/
def State.withStack (s : State) (st : Vector Word 16) : State := { s with stack := st }

/-- The entries in use are the same (10_state.md R27). -/
def State.AgreesInUse (s : State) (st : Vector Word 16) : Prop :=
  ∀ (j : Nat) (h : j < 16), j < s.sp.val → st[j]'h = s.stack[j]'h

theorem sameBelowSp_iff {s s' : State} : SameBelowSp s s' ↔ ∃ st, s' = s.withStack st ∧ s.AgreesInUse st := by
  constructor
  · rintro ⟨he, hj⟩
    exact ⟨s'.stack, he, hj⟩
  · rintro ⟨st, rfl, hj⟩
    exact ⟨rfl, hj⟩

/-- Two states that agree in use still do after an update that keeps the return stack. -/
theorem sameBelowSp_of_keeps_stack {s t : State} {st : Vector Word 16} (hj : s.AgreesInUse st)
    (hk : t.stack = s.stack ∧ t.sp = s.sp) : SameBelowSp t (t.withStack st) := by
  obtain ⟨hst, hsp⟩ := hk
  refine ⟨rfl, fun j h hlt => ?_⟩
  simp only [hst]
  exact hj j h (hsp ▸ hlt)

/-! ### The instructions that do not use the return stack -/

section Commutes

variable {s t : State} (st : Vector Word 16)

theorem skipIf_withStack (b : Bool) : (s.withStack st).skipIf b = (s.skipIf b).withStack st := by
  cases b <;> rfl

theorem writeWithFlag_withStack (x : RegIx) (r g : Byte) :
    (s.withStack st).writeWithFlag x r g = (s.writeWithFlag x r g).withStack st := by
  simp only [State.writeWithFlag, State.withStack]
  cases s.params.vfOrder <;> rfl

theorem checkedAccess_withStack {kind : AccessKind} {op : Word} {count : Nat} {done : State}
    (h : checkedAccess kind op count s done = .next t) :
    checkedAccess kind op count (s.withStack st) (done.withStack st) = .next (t.withStack st) := by
  rcases checkedAccess_cases h with ⟨hr, rfl⟩ | ⟨h1, h2, rfl⟩
  · exact checkedAccess_in_range hr
  · exact checkedAccess_out_of_range h1 h2

theorem skipOnKey_withStack {op : Word} {x : RegIx} {down : Bool} (h : skipOnKey op x down s = .next t) :
    skipOnKey op x down (s.withStack st) = .next (t.withStack st) := by
  rcases skipOnKey_cases h with ⟨k, hk, rfl⟩ | ⟨hk, rfl⟩
  · rw [← skipIf_withStack]
    exact skipOnKey_some (s := s.withStack st) hk
  · exact skipOnKey_none (s := s.withStack st) hk

theorem exec_addI_withStack {x : RegIx} (h : exec (.addI x) s = .next t) :
    exec (.addI x) (s.withStack st) = .next (t.withStack st) := by
  rcases exec_addI_cases h with ⟨hf | hw, rfl⟩ | ⟨hf, hp, rfl⟩
  · exact exec_addI_fits (s := s.withStack st) hf
  · exact exec_addI_wraps (s := s.withStack st) hw
  · exact exec_addI_faults (s := s.withStack st) hf hp

/-- An instruction other than `CALL` and `RET` does the same whatever the stack's entries are. -/
theorem exec_withStack {i : Instr} (hi : .sp ∉ i.mayChange) (h : exec i s = .next t) :
    exec i (s.withStack st) = .next (t.withStack st) := by
  cases i with
  | call nnn | ret x => simp [Instr.mayChange] at hi
  | drw x y n | ldB x | ldMemVx x | ldVxMem x => exact checkedAccess_withStack st h
  | skp x | sknp x => exact skipOnKey_withStack st h
  | addI x => exact exec_addI_withStack st h
  | seByte x kk | sneByte x kk | seReg x y n | sneReg x y n =>
    cases h; exact congrArg Host.Outcome.next (skipIf_withStack st _)
  | addReg x y | sub x y | shr x y | subn x y | shl x y =>
    cases h; exact congrArg Host.Outcome.next (writeWithFlag_withStack st x _ _)
  | _ => cases h; rfl

end Commutes

/-! ### The instructions that use the return stack -/

theorem exec_call_sameBelowSp {s t : State} {st : Vector Word 16} {nnn : Addr} (hj : s.AgreesInUse st)
    (h : exec (.call nnn) s = .next t) :
    ∃ t', exec (.call nnn) (s.withStack st) = .next t' ∧ SameBelowSp t t' := by
  rcases exec_call_cases h with ⟨hsp, rfl⟩ | ⟨hsp, rfl⟩
  · refine ⟨_, exec_call_push (s := s.withStack st) hsp, rfl, fun j h16 hlt => ?_⟩
    have hle : j < s.sp.val + 1 := hlt
    simp only [State.withStack, Vector.getElem_set]
    split
    · rfl
    · exact hj j h16 (by omega)
  · exact ⟨_, exec_call_full (s := s.withStack st) hsp, rfl, hj⟩

theorem exec_ret_sameBelowSp {s t : State} {st : Vector Word 16} {x : Nibble} (hj : s.AgreesInUse st)
    (h : exec (.ret x) s = .next t) :
    ∃ t', exec (.ret x) (s.withStack st) = .next t' ∧ SameBelowSp t t' := by
  rcases exec_ret_cases h with ⟨hsp, rfl⟩ | ⟨hsp, rfl⟩
  · have hlast : st[s.sp.val - 1]'(by omega) = s.stack[s.sp.val - 1]'(by omega) := hj _ _ (by omega)
    refine ⟨_, exec_ret_pop (s := s.withStack st) hsp, ?_, fun j h16 hlt => hj j h16 ?_⟩
    · simp only [State.withStack, hlast]
    · exact hlt.trans_le (Nat.sub_le _ _)
  · exact ⟨_, exec_ret_empty (s := s.withStack st) hsp, rfl, hj⟩

/-- No instruction lets a stack entry that is not in use show. -/
theorem exec_sameBelowSp {i : Instr} {s t : State} {st : Vector Word 16} (hj : s.AgreesInUse st)
    (h : exec i s = .next t) : ∃ t', exec i (s.withStack st) = .next t' ∧ SameBelowSp t t' := by
  by_cases hi : .sp ∈ i.mayChange
  · cases i with
    | call nnn => exact exec_call_sameBelowSp hj h
    | ret x => exact exec_ret_sameBelowSp hj h
    | _ => simp [Instr.mayChange] at hi
  · exact ⟨_, exec_withStack st hi h, sameBelowSp_of_keeps_stack hj (exec_keeps_stack h hi)⟩

/-! ### The step -/

theorem step_not_running {s : State} (h : s.mode ≠ .running) : step s = .next s := by
  cases hm : s.mode with
  | running => exact absurd hm h
  | waitingForKey x => exact step_waiting hm
  | faulted f => exact step_faulted hm

/-- Settles O28: both states fetch the same word, and no instruction lets an entry that is not in use show. -/
theorem stackEntriesAboveSpAreNotObservable : Obligations.StackEntriesAboveSpAreNotObservable := by
  intro s s' t hs h
  obtain ⟨st, rfl, hj⟩ := sameBelowSp_iff.mp hs
  rcases step_cases s with ⟨hm, he⟩ | ⟨hm, hp, he⟩ | ⟨hm, hp, r, hd, he⟩ | ⟨hm, hp, i, hd, he⟩
  · cases he.symm.trans h
    exact ⟨_, step_not_running (s := s.withStack st) hm, hs⟩
  · cases he.symm.trans h
    exact ⟨_, step_fetch_fault (s := s.withStack st) hm hp, rfl, hj⟩
  · cases he.symm.trans h
    exact ⟨_, step_unknown (s := s.withStack st) hm hp hd, rfl, hj⟩
  · rw [step_instr (s := s.withStack st) hm hp hd]
    exact exec_sameBelowSp (s := s.advancePc) hj (he.symm.trans h)

end Sys2Proof.Machine
end

section
/-! PROOFS. Data memory (20_memory.md): the four memory forms fault past 0xFFF (R55, R57), a fault of execute comes from
its own instruction under its own condition (60_exceptions.md R251), and a stored word is there for the next fetch
(R66). -/

namespace Sys2Proof.Machine

/-! ### The memory forms are checked accesses (R57) -/

section MemoryForms

variable (s : State) (x y : RegIx) (n : Nibble)

theorem exec_ldB : exec (.ldB x) s =
    checkedAccess .write (encode (.ldB x)) 3 s (s.storeBytes s.i.toNat (bcdDigits (s.getV x))) := rfl

theorem exec_ldMemVx : exec (.ldMemVx x) s =
    checkedAccess .write (encode (.ldMemVx x)) (blockCount x) s (s.storeBytes s.i.toNat (s.regsUpTo x)) := rfl

theorem exec_ldVxMem : exec (.ldVxMem x) s =
    checkedAccess .read (encode (.ldVxMem x)) (blockCount x) s (s.loadRegs s.i.toNat x) := rfl

theorem exec_drw : exec (.drw x y n) s =
    checkedAccess .read (encode (.drw x y n)) (rowCount n) s (s.drawAt (s.drawTargets x y n)) := rfl

end MemoryForms

/-- An instruction that is a checked access raises the fault of that access when it reaches past 0xFFF. -/
theorem raises_of_checkedAccess {i : Instr} {kind : AccessKind} {count : Nat} {s done : State}
    (he : exec i s = checkedAccess kind (encode i) count s done) (h0 : 0 < count)
    (hr : 0x1000 < s.i.toNat + count) :
    Raises i s (.memoryOutOfRange kind (max s.i.toNat 0x1000) (s.pc - 2#16) (some (encode i))) :=
  ⟨_, he.trans (checkedAccess_out_of_range h0 hr), rfl⟩

theorem blockCount_pos (x : RegIx) : 0 < blockCount x := Nat.succ_pos _

/-- A block from `I` on reaches past 0xFFF exactly when the byte for `V[x]` does. -/
theorem block_out_of_range_iff {a : Nat} {x : RegIx} : 0x1000 < a + blockCount x ↔ 0xFFF < a + x.toNat := by
  rw [blockCount]
  omega

/-- Settles O42: each form is a checked access, of 3 bytes, of `x + 1` bytes or of `n` bytes from `I` on. -/
theorem memoryFormsFaultPastMemory : Obligations.MemoryFormsFaultPastMemory := by
  intro s x y n
  refine ⟨fun h => ?_, fun h => ?_, fun h => ?_, fun hn h => ?_⟩
  · exact raises_of_checkedAccess (exec_ldB s x) (by decide) (by omega)
  · exact raises_of_checkedAccess (exec_ldMemVx s x) (blockCount_pos x) (block_out_of_range_iff.mpr h)
  · exact raises_of_checkedAccess (exec_ldVxMem s x) (blockCount_pos x) (block_out_of_range_iff.mpr h)
  · exact raises_of_checkedAccess (exec_drw s x y n) hn (by rw [rowCount]; omega)

/-! ### Where a fault comes from (60_exceptions.md R251) -/

section FaultConditions

variable {s t : State} {f : Fault} {x : RegIx}

/-- An instruction that is a checked access faults only by reaching past 0xFFF. -/
theorem exec_checkedAccess_faulted {i : Instr} {kind : AccessKind} {count : Nat} {done : State}
    (he : exec i s = checkedAccess kind (encode i) count s done) (hd : done.mode = .running)
    (h : exec i s = .next t) (hf : t.mode = .faulted f) :
    (0 < count ∧ 0x1000 < s.i.toNat + count) ∧
      f = .memoryOutOfRange kind (max s.i.toNat 0x1000) (s.pc - 2#16) (some (encode i)) := by
  rcases checkedAccess_cases (he.symm.trans h) with ⟨_, rfl⟩ | ⟨h0, hr, rfl⟩
  · cases hd.symm.trans hf
  · cases hf
    exact ⟨⟨h0, hr⟩, rfl⟩

theorem skipOnKey_faulted {op : Word} {down : Bool} (hrun : s.mode = .running)
    (h : skipOnKey op x down s = .next t) (hf : t.mode = .faulted f) :
    15 < (s.getV x).toNat ∧ s.params.keyIndexOor = .fault ∧
      f = .keyIndexOutOfRange (s.pc - 2#16) op (s.getV x) := by
  rcases skipOnKey_cases h with ⟨k, _, rfl⟩ | ⟨hk, rfl⟩
  · cases ((State.skipIf_mode s _).trans hrun).symm.trans hf
  · cases hf
    rcases keyIndex_cases s.params (s.getV x) with hs | ⟨hv, hp, _⟩
    · cases hk.symm.trans hs
    · exact ⟨hv, hp, rfl⟩

theorem exec_addI_faulted (hrun : s.mode = .running) (h : exec (.addI x) s = .next t) (hf : t.mode = .faulted f) :
    0xFFFF < s.i.toNat + (s.getV x).toNat ∧ s.params.iOverflow = .fault ∧
      f = .indexOverflow (s.pc - 2#16) (encode (.addI x)) s.i (s.getV x) := by
  rcases exec_addI_cases h with ⟨_, rfl⟩ | ⟨hv, hp, rfl⟩
  · cases hrun.symm.trans hf
  · cases hf
    exact ⟨hv, hp, rfl⟩

theorem exec_call_faulted {nnn : Addr} (hrun : s.mode = .running) (h : exec (.call nnn) s = .next t)
    (hf : t.mode = .faulted f) :
    s.sp.val = 16 ∧ f = .stackOverflow (s.pc - 2#16) (encode (.call nnn)) := by
  rcases exec_call_cases h with ⟨_, rfl⟩ | ⟨hsp, rfl⟩
  · cases hrun.symm.trans hf
  · cases hf
    exact ⟨hsp, rfl⟩

theorem exec_ret_faulted {z : Nibble} (hrun : s.mode = .running) (h : exec (.ret z) s = .next t)
    (hf : t.mode = .faulted f) :
    s.sp.val = 0 ∧ f = .stackUnderflow (s.pc - 2#16) (encode (.ret z)) := by
  rcases exec_ret_cases h with ⟨_, rfl⟩ | ⟨hsp, rfl⟩
  · cases hrun.symm.trans hf
  · cases hf
    exact ⟨hsp, rfl⟩

end FaultConditions

/-- Settles O53: an instruction that may not change the run state leaves the machine running, the key wait is no fault,
and each other instruction faults under its own condition only. -/
theorem faultsComeFromTheirInstructions : Obligations.FaultsComeFromTheirInstructions := by
  intro i s t f hrun h hf
  by_cases hm : .mode ∈ i.mayChange
  · cases i with
    | call nnn => exact .inl ⟨nnn, rfl, exec_call_faulted hrun h hf⟩
    | ret x => exact .inr (.inl ⟨x, rfl, exec_ret_faulted hrun h hf⟩)
    | addI x => exact .inr (.inr (.inl ⟨x, rfl, exec_addI_faulted hrun h hf⟩))
    | skp x => exact .inr (.inr (.inr (.inl ⟨x, .inl rfl, skipOnKey_faulted hrun h hf⟩)))
    | sknp x => exact .inr (.inr (.inr (.inl ⟨x, .inr rfl, skipOnKey_faulted hrun h hf⟩)))
    | ldB x =>
      obtain ⟨⟨_, hr⟩, he⟩ := exec_checkedAccess_faulted (exec_ldB s x) hrun h hf
      exact .inr (.inr (.inr (.inr (.inl ⟨x, .inl ⟨rfl, by omega⟩, he⟩))))
    | ldMemVx x =>
      obtain ⟨⟨_, hr⟩, he⟩ := exec_checkedAccess_faulted (exec_ldMemVx s x) hrun h hf
      exact .inr (.inr (.inr (.inr (.inl ⟨x, .inr ⟨rfl, block_out_of_range_iff.mp hr⟩, he⟩))))
    | ldVxMem x =>
      obtain ⟨⟨_, hr⟩, he⟩ := exec_checkedAccess_faulted (exec_ldVxMem s x) hrun h hf
      exact .inr (.inr (.inr (.inr (.inr ⟨x, .inl ⟨rfl, block_out_of_range_iff.mp hr⟩, he⟩))))
    | drw x y n =>
      obtain ⟨hr, he⟩ := exec_checkedAccess_faulted (exec_drw s x y n) hrun h hf
      exact .inr (.inr (.inr (.inr (.inr ⟨x, .inr ⟨y, n, rfl, hr⟩, he⟩))))
    | ldVxK x => cases h; cases hf
    | _ => simp [Instr.mayChange] at hm
  · have hsame : t.mode = s.mode := instructionsChangeOnlyTheirParts i s t h .mode hm
    cases (hsame.trans hrun).symm.trans hf

/-! ### A stored word is fetched (R52, R66) -/

/-- After the block store from `a` on, the byte at `a + j` is `V[j]`. -/
theorem read_storeBytes_regsUpTo {s : State} {x : RegIx} {j : Nat} (a : Nat) (hj : j ≤ x.toNat) :
    (s.storeBytes a (s.regsUpTo x)).mem.read (a + j) = s.getV (BitVec.ofNat 4 j) := by
  have hx := x.isLt
  have hl : j < (s.regsUpTo x).length := by rw [State.length_regsUpTo, blockCount]; omega
  rw [State.storeBytes_mem, Memory.read_writeBytes, dif_pos ⟨by omega, by omega⟩,
    ← State.getElem_regsUpTo s x j hl (by omega)]
  congr 1
  omega

/-- The word at `pc` after a block store at `pc` is `V0`, `V1`. -/
theorem fetchWord_storeBytes_regsUpTo {s : State} {x : RegIx} (hx : 1 ≤ x.toNat) :
    fetchWord (s.storeBytes s.pc.toNat (s.regsUpTo x)) = wordOfBytes (s.getV 0x0#4) (s.getV 0x1#4) :=
  congrArg₂ wordOfBytes (read_storeBytes_regsUpTo s.pc.toNat (Nat.zero_le _))
    (read_storeBytes_regsUpTo s.pc.toNat hx)

/-- Settles O43: the store is in range, it leaves the run state, `pc` and the parameters as they are, and the next step
fetches the two bytes just stored. -/
theorem storedWordIsTheNextFetched : Obligations.StoredWordIsTheNextFetched := by
  intro s x hrun hpc hx hr
  have hstore : exec (.ldMemVx x) s = .next (s.storeBytes s.i.toNat (s.regsUpTo x)) :=
    checkedAccess_in_range (.inr (by rw [blockCount]; omega))
  refine ⟨_, hstore, fun i hd => ?_⟩
  rw [hpc] at hr ⊢
  rw [← wordOfBytes_eq_ofNat, ← fetchWord_storeBytes_regsUpTo hx] at hd
  exact step_instr (s := s.storeBytes s.pc.toNat (s.regsUpTo x)) hrun (by rw [State.storeBytes_pc]; omega) hd

end Sys2Proof.Machine
end

section
/-! PROOFS. The decoder (30_encoding.md R81 to R90): every instruction it answers is the reading of the word, the words it
rejects, and what the cycle does with those and with `SYS` (R87). -/

namespace Sys2Proof.Machine

open Config

/-- `i` is a reading of the word `op`: `op` is its word and no wider row of the map takes `op` first. -/
def IsReadingOf (z : ZeroFamilyMatch) (op : Word) (i : Instr) : Prop := encode i = op ∧ i.wellFormed z = true

variable {z : ZeroFamilyMatch} {op : Word} {i : Instr}

/-! ### Family 0 (R85) -/

theorem fieldNnn_eq_setWidth_iff (op : Word) (b : Byte) :
    fieldNnn op = b.setWidth 12 ↔ fieldX op = 0#4 ∧ fieldKk op = b := by
  have := b.isLt
  rw [fieldX_eq_iff, fieldKk_eq_iff, ← BitVec.toNat_inj, fieldNnn_toNat, BitVec.toNat_setWidth, BitVec.toNat_ofNat]
  omega

theorem setWidth_fieldNnn (op : Word) : (fieldNnn op).setWidth 8 = fieldKk op := by
  apply BitVec.eq_of_toNat_eq
  rw [BitVec.toNat_setWidth, fieldNnn_toNat, fieldKk_toNat]
  omega

theorem zeroNibbleOk_fieldX (z : ZeroFamilyMatch) (op : Word) :
    zeroNibbleOk z (fieldX op) = zeroFamilyMatches z op := by
  cases z <;> rfl

/-- The operand of a `SYS` is one that neither `CLS` nor `RET` takes. -/
theorem sysOperandOk_fieldNnn_iff (z : ZeroFamilyMatch) (op : Word) : sysOperandOk z (fieldNnn op) = true ↔
    (zeroFamilyMatches z op = true → fieldKk op ≠ 0xE0#8 ∧ fieldKk op ≠ 0xEE#8) := by
  cases z with
  | lowByte => simp [sysOperandOk, zeroFamilyMatches, setWidth_fieldNnn]
  | fullWord =>
    have h1 : fieldNnn op = 0x0E0#12 ↔ _ := fieldNnn_eq_setWidth_iff op 0xE0#8
    have h2 : fieldNnn op = 0x0EE#12 ↔ _ := fieldNnn_eq_setWidth_iff op 0xEE#8
    simp only [sysOperandOk, zeroFamilyMatches, Bool.and_eq_true, bne_iff_ne, beq_iff_eq, ne_eq, h1, h2]
    tauto

theorem isReadingOf_sys (hf : fieldFamily op = 0x0#4)
    (h : zeroFamilyMatches z op = true → fieldKk op ≠ 0xE0#8 ∧ fieldKk op ≠ 0xEE#8) :
    IsReadingOf z op (.sys (fieldNnn op)) :=
  ⟨eq_wordNnn_of_fields hf rfl, (sysOperandOk_fieldNnn_iff z op).mpr h⟩

theorem isReadingOf_decodeFamily0 (hf : fieldFamily op = 0x0#4) : IsReadingOf z op (decodeFamily0 z op) := by
  unfold decodeFamily0
  split_ifs with hz h1 h2
  · exact ⟨eq_wordXKk_of_fields hf rfl h1, (zeroNibbleOk_fieldX z op).trans hz⟩
  · exact ⟨eq_wordXKk_of_fields hf rfl h2, (zeroNibbleOk_fieldX z op).trans hz⟩
  · exact isReadingOf_sys hf fun _ => ⟨h1, h2⟩
  · exact isReadingOf_sys hf fun h => absurd h hz

/-! ### Families 8, E and F (R83) -/

theorem isReadingOf_of_decodeFamily8 (hf : fieldFamily op = 0x8#4) (h : decodeFamily8 op = .ok i) :
    IsReadingOf z op i := by
  unfold decodeFamily8 at h
  split at h <;> cases h
  all_goals
    rename_i hn
    exact ⟨eq_wordXYN_of_fields hf rfl rfl (BitVec.eq_of_toNat_eq hn), rfl⟩

theorem isReadingOf_of_decodeFamilyE (hf : fieldFamily op = 0xE#4) (h : decodeFamilyE op = .ok i) :
    IsReadingOf z op i := by
  unfold decodeFamilyE at h
  split_ifs at h with hk hk <;> cases h
  all_goals exact ⟨eq_wordXKk_of_fields hf rfl hk, rfl⟩

theorem isReadingOf_of_decodeFamilyF (hf : fieldFamily op = 0xF#4) (h : decodeFamilyF op = .ok i) :
    IsReadingOf z op i := by
  unfold decodeFamilyF at h
  split_ifs at h with hk hk hk hk hk hk hk hk hk <;> cases h
  all_goals exact ⟨eq_wordXKk_of_fields hf rfl hk, rfl⟩

theorem decodeFamily8_error_iff (op : Word) : (∃ r, decodeFamily8 op = .error r) ↔
    op.toNat % 16 = 0xF ∨ 8 ≤ op.toNat % 16 ∧ op.toNat % 16 ≤ 0xD := by
  unfold decodeFamily8
  rw [← fieldN_toNat]
  split
  case h_10 =>
    have := (fieldN op).isLt
    simp only [imp_false] at *
    exact ⟨fun _ => by omega, fun _ => ⟨_, rfl⟩⟩
  all_goals exact ⟨fun ⟨_, h⟩ => (nomatch h), fun _ => by omega⟩

/-- A test of the second key that succeeds rejects nothing. -/
theorem ite_ok_error_iff {c : Prop} [Decidable c] {i : Instr} {e : Except Reject Instr} :
    (∃ r, (if c then .ok i else e) = .error r) ↔ ¬ c ∧ ∃ r, e = .error r := by
  split <;> simp [*]

theorem decodeFamilyE_error_iff (op : Word) : (∃ r, decodeFamilyE op = .error r) ↔
    op.toNat % 256 ≠ 0x9E ∧ op.toNat % 256 ≠ 0xA1 := by
  simp [decodeFamilyE, ite_ok_error_iff, fieldKk_eq_iff]

theorem decodeFamilyF_error_iff (op : Word) : (∃ r, decodeFamilyF op = .error r) ↔
    op.toNat % 256 ∉ [0x07, 0x0A, 0x15, 0x18, 0x1E, 0x29, 0x33, 0x55, 0x65] := by
  simp [decodeFamilyF, ite_ok_error_iff, fieldKk_eq_iff]

/-! ### Every word (R83, R89) -/

theorem fieldFamily_eq_iff (op : Word) (f : Nibble) : fieldFamily op = f ↔ op.toNat / 4096 = f.toNat := by
  rw [← BitVec.toNat_inj, fieldFamily_toNat]

/-- Outside families 8, E and F every word has a reading. -/
theorem exists_reading_of_family (h8 : fieldFamily op ≠ 0x8#4) (hE : fieldFamily op ≠ 0xE#4)
    (hF : fieldFamily op ≠ 0xF#4) : ∃ i, decode z op = .ok i ∧ IsReadingOf z op i := by
  unfold decode
  split
  case h_1 hf => exact ⟨_, rfl, isReadingOf_decodeFamily0 (BitVec.eq_of_toNat_eq hf)⟩
  case h_2 hf | h_3 hf | h_11 hf | h_12 hf =>
    exact ⟨_, rfl, eq_wordNnn_of_fields (BitVec.eq_of_toNat_eq hf) rfl, rfl⟩
  case h_4 hf | h_5 hf | h_7 hf | h_8 hf | h_13 hf =>
    exact ⟨_, rfl, eq_wordXKk_of_fields (BitVec.eq_of_toNat_eq hf) rfl rfl, rfl⟩
  case h_6 hf | h_10 hf | h_14 hf =>
    exact ⟨_, rfl, eq_wordXYN_of_fields (BitVec.eq_of_toNat_eq hf) rfl rfl rfl, rfl⟩
  case h_9 hf => exact absurd (BitVec.eq_of_toNat_eq hf) h8
  case h_15 hf => exact absurd (BitVec.eq_of_toNat_eq hf) hE
  case h_16 =>
    have := (fieldFamily op).isLt
    simp only [imp_false] at *
    have hf : (fieldFamily op).toNat = (0xF#4).toNat := by simp only [BitVec.toNat_ofNat]; omega
    exact absurd (BitVec.eq_of_toNat_eq hf) hF

/-- Everything the decoder can do: in families 8, E and F it goes by the second key, and in the others it answers a
reading of the word. -/
theorem decode_cases (z : ZeroFamilyMatch) (op : Word) :
    (fieldFamily op = 0x8#4 ∧ decode z op = decodeFamily8 op) ∨
    (fieldFamily op = 0xE#4 ∧ decode z op = decodeFamilyE op) ∨
    (fieldFamily op = 0xF#4 ∧ decode z op = decodeFamilyF op) ∨
    (fieldFamily op ≠ 0x8#4 ∧ fieldFamily op ≠ 0xE#4 ∧ fieldFamily op ≠ 0xF#4 ∧
      ∃ i, decode z op = .ok i ∧ IsReadingOf z op i) := by
  by_cases h8 : fieldFamily op = 0x8#4
  · exact .inl ⟨h8, by rw [decode, h8]; rfl⟩
  by_cases hE : fieldFamily op = 0xE#4
  · exact .inr (.inl ⟨hE, by rw [decode, hE]; rfl⟩)
  by_cases hF : fieldFamily op = 0xF#4
  · exact .inr (.inr (.inl ⟨hF, by rw [decode, hF]; rfl⟩))
  · exact .inr (.inr (.inr ⟨h8, hE, hF, exists_reading_of_family h8 hE hF⟩))

/-- Settles O2: each family answers a reading of the word only, put together again from the fields the decoder took. -/
theorem encodeOfDecodedWord : Obligations.EncodeOfDecodedWord := by
  intro z op i h
  rcases decode_cases z op with ⟨hf, he⟩ | ⟨hf, he⟩ | ⟨hf, he⟩ | ⟨_, _, _, j, he, hj⟩
  · exact isReadingOf_of_decodeFamily8 hf (he.symm.trans h)
  · exact isReadingOf_of_decodeFamilyE hf (he.symm.trans h)
  · exact isReadingOf_of_decodeFamilyF hf (he.symm.trans h)
  · cases he.symm.trans h
    exact hj

/-- Settles O4: families 8, E and F reject by the second key, and a word of another family has a reading. -/
theorem unknownWordsAreExactlyThese : Obligations.UnknownWordsAreExactlyThese := by
  intro z op
  rcases decode_cases z op with ⟨hf, he⟩ | ⟨hf, he⟩ | ⟨hf, he⟩ | ⟨h8, hE, hF, j, he, _⟩
  · rw [he, decodeFamily8_error_iff]
    simp [(fieldFamily_eq_iff op _).mp hf]
  · rw [he, decodeFamilyE_error_iff]
    simp [(fieldFamily_eq_iff op _).mp hf]
  · rw [he, decodeFamilyF_error_iff]
    simp [(fieldFamily_eq_iff op _).mp hf]
  · rw [ne_eq, fieldFamily_eq_iff] at h8 hE hF
    rw [he]
    constructor
    · rintro ⟨_, h⟩
      cases h
    · rintro (⟨h, _⟩ | ⟨h, _⟩ | ⟨h, _⟩)
      · exact absurd h h8
      · exact absurd h hE
      · exact absurd h hF

/-! ### The cycle on unknown words, and `SYS` (R87) -/

theorem exec_sys (nnn : Addr) (s : State) : exec (.sys nnn) s = .next s := rfl

/-- Settles O8: the step leaves an unknown word at the `pc` advance, and `SYS` leaves the state it is given. -/
theorem unknownWordsAndSysAreNoOps : Obligations.UnknownWordsAndSysAreNoOps := by
  refine ⟨fun s r hrun hpc hd => ?_, fun s nnn => ⟨s, exec_sys nnn s, sameExcept_self s []⟩⟩
  rw [← wordOfBytes_eq_ofNat] at hd
  exact ⟨_, step_unknown hrun hpc hd, advancePc_toNat hpc, sameExcept_setPc s _⟩

end Sys2Proof.Machine
end

section
/-! PROOFS. The cycle's rules (40_cycle.md R113, R114, R118): the step runs the decoded instruction, a key wait outlasts
every move but a key press, and every step answers a next state. -/

namespace Sys2Proof.Machine

/-! ### Every instruction answers a next state (R118, 92_eei_decisions.md D10) -/

theorem checkedAccess_next (kind : AccessKind) (op : Word) (count : Nat) (s done : State) :
    ∃ t, checkedAccess kind op count s done = .next t := by
  by_cases hc : count = 0 ∨ s.i.toNat + count ≤ 0x1000
  · exact ⟨done, checkedAccess_in_range hc⟩
  · exact ⟨_, checkedAccess_out_of_range (by omega) (by omega)⟩

theorem skipOnKey_next (op : Word) (x : RegIx) (down : Bool) (s : State) : ∃ t, skipOnKey op x down s = .next t := by
  cases hk : keyIndex s.params (s.getV x) with
  | some k => exact ⟨_, skipOnKey_some hk⟩
  | none => exact ⟨_, skipOnKey_none hk⟩

theorem exec_addI_next (x : RegIx) (s : State) : ∃ t, exec (.addI x) s = .next t := by
  by_cases hi : s.i.toNat + (s.getV x).toNat ≤ 0xFFFF
  · exact ⟨_, exec_addI_fits hi⟩
  · cases hp : s.params.iOverflow with
    | fault => exact ⟨_, exec_addI_faults (by omega) hp⟩
    | wrap => exact ⟨_, exec_addI_wraps hp⟩

theorem exec_call_next (nnn : Addr) (s : State) : ∃ t, exec (.call nnn) s = .next t := by
  by_cases hsp : s.sp.val < 16
  · exact ⟨_, exec_call_push hsp⟩
  · exact ⟨_, exec_call_full (by omega)⟩

theorem exec_ret_next (x : Nibble) (s : State) : ∃ t, exec (.ret x) s = .next t := by
  by_cases hsp : 0 < s.sp.val
  · exact ⟨_, exec_ret_pop hsp⟩
  · exact ⟨_, exec_ret_empty (by omega)⟩

/-- The instructions that can fault answer the fault as a next state; every other one has a single outcome. -/
theorem exec_next (i : Instr) (s : State) : ∃ t, exec i s = .next t := by
  cases i with
  | ret x => exact exec_ret_next x s
  | call nnn => exact exec_call_next nnn s
  | addI x => exact exec_addI_next x s
  | skp x | sknp x => exact skipOnKey_next _ x _ s
  | drw x y n | ldB x | ldMemVx x | ldVxMem x => exact checkedAccess_next _ _ _ s _
  | _ => exact ⟨_, rfl⟩

theorem step_next (s : State) : ∃ t, step s = .next t := by
  rcases step_cases s with ⟨_, he⟩ | ⟨_, _, he⟩ | ⟨_, _, _, _, he⟩ | ⟨_, _, i, _, he⟩
  · exact ⟨_, he⟩
  · exact ⟨_, he⟩
  · exact ⟨_, he⟩
  · rw [he]
    exact exec_next i s.advancePc

/-- Settles O11: outside `exec` the step only answers next states, and `exec` does so for every instruction. -/
theorem stepAlwaysAnswersNext : Obligations.StepAlwaysAnswersNext :=
  ⟨step_next, exec_next⟩

/-! ### The decoded instruction runs after the `pc` advance (R113) -/

/-- Settles O6: the two bytes are the word fetched, and the state with `pc` advanced is `advancePc`. -/
theorem stepRunsDecodedInstruction : Obligations.StepRunsDecodedInstruction := by
  intro s i hrun hpc hd
  rw [← wordOfBytes_eq_ofNat] at hd
  exact step_instr hrun hpc hd

/-! ### The key wait (R114) -/

theorem isFaulted_waiting {s : State} {x : RegIx} (h : s.mode = .waitingForKey x) : s.isFaulted = false :=
  isFaulted_eq_false fun f hf => by simp [h] at hf

theorem tick_mode (s : State) : (tick s).mode = s.mode := by
  cases hf : s.isFaulted with
  | true => rw [tick_faulted hf]
  | false => rw [tick_running hf]

/-- Settles O9: a waiting machine's step is the identity, and neither port writes the run state. -/
theorem waitingMachineIgnoresSteps : Obligations.WaitingMachineIgnoresSteps := by
  intro s x hw
  refine ⟨step_waiting hw, (tick_mode s).trans hw, fun k b hk => ?_⟩
  exact ⟨_, setKey_next hk (isFaulted_waiting hw), hw⟩

end Sys2Proof.Machine
end

section
/-! PROOFS. The additions and subtractions (43_alu.md R162, R167, R168, R170). The form with a byte writes its register
alone; each of the others is one write of a result and a flag. -/

namespace Sys2Proof.Machine

/-! ### The form without a flag (R162) -/

theorem regsSameExcept_setV (s : State) (x : RegIx) (b : Byte) : RegsSameExcept [x] s (s.setV x b) :=
  fun _ hj => s.getV_setV_ne (List.ne_of_not_mem_cons hj) b

/-- An instruction whose meaning is one `setV` writes that register and nothing else. -/
theorem writesRegister_of_exec {i : Instr} {s : State} {x : RegIx} {r : Byte}
    (h : exec i s = .next (s.setV x r)) : WritesRegister i s x r :=
  ⟨_, h, s.getV_setV_self x r, regsSameExcept_setV s x r, sameExcept_setV s x r⟩

theorem exec_addByte (s : State) (x : RegIx) (kk : Byte) :
    exec (.addByte x kk) s = .next (s.setV x (sumByte (s.getV x) kk)) := rfl

/-- Settles O13: the byte with the stated value is `sumByte`, and the instruction is one `setV` of it. -/
theorem addByteWrapsWithoutFlag : Obligations.AddByteWrapsWithoutFlag := by
  intro s x kk r hr
  have hsum : r = sumByte (s.getV x) kk := BitVec.eq_of_toNat_eq (by rw [hr, sumByte_toNat])
  rw [hsum]
  exact writesRegister_of_exec (exec_addByte s x kk)

/-! ### The forms with a flag (R167, R168, R170) -/

theorem exec_addReg (s : State) (x y : RegIx) : exec (.addReg x y) s =
    .next (s.writeWithFlag x (sumByte (s.getV x) (s.getV y)) (carryFlag (s.getV x) (s.getV y))) := rfl

theorem exec_sub (s : State) (x y : RegIx) : exec (.sub x y) s =
    .next (s.writeWithFlag x (differenceByte (s.getV x) (s.getV y)) (notBorrowFlag (s.getV x) (s.getV y))) := rfl

theorem exec_subn (s : State) (x y : RegIx) : exec (.subn x y) s =
    .next (s.writeWithFlag x (differenceByte (s.getV y) (s.getV x)) (notBorrowFlag (s.getV y) (s.getV x))) := rfl

/-- Settles O15: one write of a result and a flag, with the values of `sumByte` and `carryFlag`. -/
theorem addRegisterCarries : Obligations.AddRegisterCarries := by
  intro s x y
  rw [← sumByte_toNat, ← carryFlag_toNat]
  exact writesResultAndFlag_of_exec (exec_addReg s x y)

/-- Settles O16: one write of a result and a flag; truncated subtraction of naturals is the saturating
`differenceByte`. -/
theorem subSaturates : Obligations.SubSaturates := by
  intro s x y
  rw [← differenceByte_toNat, ← notBorrowFlag_toNat]
  exact writesResultAndFlag_of_exec (exec_sub s x y)

/-- Settles O17: the outcome of `SUB` with the operands the other way round. -/
theorem subnSaturates : Obligations.SubnSaturates := by
  intro s x y
  rw [← differenceByte_toNat, ← notBorrowFlag_toNat]
  exact writesResultAndFlag_of_exec (exec_subn s x y)

end Sys2Proof.Machine
end

section
/-! PROOFS. The BCD and block-transfer instructions in range (44_index_timer_memory.md R197 to R199): each is a checked
access that completes, and what a read gives afterwards comes from the rules for block stores and block loads. -/

namespace Sys2Proof.Machine

/-! ### Stored blocks -/

section StoredBlocks

variable (s : State) (a : Nat)

/-- After a block store from `a` on, the byte at `a + j` is byte `j` of the block. -/
theorem read_storeBytes_add {bs : List Byte} {j : Nat} (hj : j < bs.length) :
    (s.storeBytes a bs).mem.read (a + j) = bs[j] := by
  have hin : a ≤ a + j ∧ a + j - a < bs.length := by omega
  rw [State.storeBytes_mem, Memory.read_writeBytes, dif_pos hin]
  simp only [Nat.add_sub_cancel_left]

theorem memSameOutside_storeBytes {bs : List Byte} {n : Nat} (hn : bs.length = n) :
    MemSameOutside a n s (s.storeBytes a bs) := by
  intro b hb
  exact Memory.read_writeBytes_outside (by rwa [hn])

end StoredBlocks

/-! ### The decimal digits (R197) -/

/-- No digit is cut when it is made a byte. -/
theorem map_toNat_bcdDigits (b : Byte) :
    (bcdDigits b).map BitVec.toNat = [b.toNat / 100, b.toNat / 10 % 10, b.toNat % 10] := by
  have hb := b.isLt
  simp only [bcdDigits, List.map_cons, List.map_nil, BitVec.toNat_ofNat, List.cons.injEq, and_true]
  omega

theorem read_storeBytes_bcdDigits (s : State) (a : Nat) (b : Byte) {j : Nat} (hj : j < 3) :
    ((s.storeBytes a (bcdDigits b)).mem.read (a + j)).toNat =
      [b.toNat / 100, b.toNat / 10 % 10, b.toNat % 10][j] := by
  rw [read_storeBytes_add s a (bs := bcdDigits b) hj]
  exact (List.getElem_map BitVec.toNat).symm.trans (List.getElem_of_eq (map_toNat_bcdDigits b) hj)

/-- Settles O39: the access is in range, so it stores the three digits from `I` on. -/
theorem bcdStoresDigits : Obligations.BcdStoresDigits := by
  intro s x hr
  have hexec : exec (.ldB x) s = .next (s.storeBytes s.i.toNat (bcdDigits (s.getV x))) :=
    (exec_ldB s x).trans (checkedAccess_in_range (.inr (by omega)))
  have hdigit {j : Nat} (hj : j < 3) := read_storeBytes_bcdDigits s s.i.toNat (s.getV x) hj
  exact ⟨_, hexec, hdigit (j := 0) (by decide), hdigit (j := 1) (by decide), hdigit (j := 2) (by decide),
    memSameOutside_storeBytes s _ (length_bcdDigits _), sameExcept_storeBytes s _ _⟩

/-! ### The block transfers (R198, R199) -/

theorem block_in_range {a : Nat} {x : RegIx} (h : a + x.toNat ≤ 0xFFF) : a + blockCount x ≤ 0x1000 := by
  rw [blockCount]
  omega

/-- Settles O40: the access is in range, so it stores `V0` to `V[x]` from `I` on. -/
theorem blockStoreWritesRegisters : Obligations.BlockStoreWritesRegisters := by
  intro s x hr
  have hexec : exec (.ldMemVx x) s = .next (s.storeBytes s.i.toNat (s.regsUpTo x)) :=
    (exec_ldMemVx s x).trans (checkedAccess_in_range (.inr (block_in_range hr)))
  refine ⟨_, hexec, fun j hj => ?_, memSameOutside_storeBytes s _ (s.length_regsUpTo x), sameExcept_storeBytes s _ _⟩
  rw [read_storeBytes_regsUpTo _ hj, BitVec.ofNat_toNat, BitVec.setWidth_eq]

/-- Settles O41: the access is in range, so it is one `loadRegs` from `I` on. -/
theorem blockLoadReadsRegisters : Obligations.BlockLoadReadsRegisters := by
  intro s x hr
  have hexec : exec (.ldVxMem x) s = .next (s.loadRegs s.i.toNat x) :=
    (exec_ldVxMem s x).trans (checkedAccess_in_range (.inr (block_in_range hr)))
  refine ⟨_, hexec, fun j hj => ?_, fun j hj => ?_, sameExcept_loadRegs s _ x⟩
  · rw [State.getV_loadRegs, if_pos hj]
  · rw [State.getV_loadRegs, if_neg (Nat.not_le.mpr hj)]

end Sys2Proof.Machine
end

section
/-! PROOFS. The draw instruction in range (46_draw.md R225 to R228): it completes, inverts its target pixels, and its
collision is a pixel that it turns from 1 to 0. -/

namespace Sys2Proof.Machine

/-- A draw whose rows are all in range completes, with no row at all too. -/
theorem exec_drw_in_range {s : State} {n : Nibble} (x y : RegIx) (h : n.toNat = 0 ∨ s.i.toNat + n.toNat ≤ 0x1000) :
    exec (.drw x y n) s = .next (s.drawAt (s.drawTargets x y n)) :=
  (exec_drw s x y n).trans (checkedAccess_in_range h)

section Drawing

variable {ps : List (Fin 64 × Fin 32)} (hn : ps.Nodup) (s : State)

include hn

theorem State.pixel_drawAt (px : Fin 64) (py : Fin 32) :
    (s.drawAt ps).pixel px py = if (px, py) ∈ ps then !s.pixel px py else s.pixel px py :=
  drawPixels_pixel hn s.display px py

/-- A pixel goes from 1 to 0 exactly when it was set and is drawn on. -/
theorem State.pixel_cleared_by_drawAt_iff (px : Fin 64) (py : Fin 32) :
    s.pixel px py = true ∧ (s.drawAt ps).pixel px py = false ↔ (px, py) ∈ ps ∧ s.pixel px py = true := by
  rw [State.pixel_drawAt hn]
  by_cases hp : (px, py) ∈ ps
  · simp [hp]
  · simp [hp]

/-- The collision of a draw is a pixel that goes from 1 to 0 (R228). -/
theorem drawPixels_collision_iff_cleared : (drawPixels s.display ps).2 = true ↔
    ∃ px py, s.pixel px py = true ∧ (s.drawAt ps).pixel px py = false := by
  simp only [State.pixel_cleared_by_drawAt_iff hn]
  exact (drawPixels_collision hn s.display).trans Prod.exists

end Drawing

/-- Settles O46: `VF` holds the collision of a draw on different pixels, whatever it held before. -/
theorem collisionFlag : Obligations.CollisionFlag := by
  intro s x y n hr
  have hflag := (s.getV_drawAt (s.drawTargets x y n) vfIx).trans (if_pos rfl)
  have hhit := drawPixels_collision_iff_cleared (nodup_drawTargets s x y n) s
  refine ⟨_, exec_drw_in_range x y hr, ?_, ?_⟩
  · exact hflag ▸ (flagByte_eq_one _).trans hhit
  · exact hflag ▸ (flagByte_eq_zero _).trans (Bool.eq_false_iff.trans (not_congr hhit))

end Sys2Proof.Machine
end

section
/-! PROOFS. The registers an instruction may write (10_state.md R21, R22): an instruction that may not change the
register file keeps it, and each of the others writes through one register update, whose rule says which registers it
leaves. -/

namespace Sys2Proof.Machine

section OneRegister

variable {i : Instr} {s t : State} {j : RegIx}

theorem exec_keeps_registers (h : exec i s = .next t) (hv : .v ∉ i.mayChange) : t.getV j = s.getV j :=
  instructionsChangeOnlyTheirParts i s t h .v hv j

theorem State.getV_writeWithFlag_ne {x : RegIx} {r g : Byte} (h : ¬ (j = x ∨ j = vfIx)) :
    (s.writeWithFlag x r g).getV j = s.getV j :=
  regsSameExcept_writeWithFlag s x r g j (by simpa using h)

/-- A checked access keeps a register that its completion keeps: its fault keeps them all (60_exceptions.md R253). -/
theorem checkedAccess_keeps_register {kind : AccessKind} {op : Word} {count : Nat} {done : State}
    (h : checkedAccess kind op count s done = .next t) (hd : done.getV j = s.getV j) : t.getV j = s.getV j := by
  rcases checkedAccess_cases h with ⟨_, rfl⟩ | ⟨_, _, rfl⟩
  · exact hd
  · exact State.getV_setMode s _ j

end OneRegister

/-- Settles O51: by the kind of register update: one register, a result and a flag, the collision of a draw, the block
load, or none. -/
theorem instructionsWriteOnlyTheirRegisters : Obligations.InstructionsWriteOnlyTheirRegisters := by
  intro i s t j h hw
  cases i with
  | ldByte x kk | addByte x kk | ldReg x y | orReg x y | andReg x y | xorReg x y | ldVxDt x =>
    cases h; exact State.getV_setV_ne s hw _
  | rnd x kk => cases h; rw [State.getV_countDraw, State.getV_setV_ne s hw]
  | addReg x y | sub x y | shr x y | subn x y | shl x y => cases h; exact State.getV_writeWithFlag_ne hw
  | drw x y n => exact checkedAccess_keeps_register h ((State.getV_drawAt s _ j).trans (if_neg hw))
  | ldVxMem x => exact checkedAccess_keeps_register h ((State.getV_loadRegs s _ x j).trans (if_neg hw))
  | sys _ | cls _ | ret _ | jp _ | call _ | seByte _ _ | sneByte _ _ | seReg _ _ _ | sneReg _ _ _ | ldI _ | jpV0 _
  | skp _ | sknp _ | ldVxK _ | ldDtVx _ | ldStVx _ | addI _ | ldF _ | ldB _ | ldMemVx _ =>
    exact exec_keeps_registers h (by simp [Instr.mayChange])

end Sys2Proof.Machine
end

section
/-! PROOFS. The timer writes with the sound output (60_exceptions.md R261) and the key ports (R263, R264): a key's
state is written by one update, and a press in a key wait ends the wait after it. -/

namespace Sys2Proof.Machine

/-! ### Timer writes (44_index_timer_memory.md R194, R195) -/

theorem exec_ldDtVx (s : State) (x : RegIx) : exec (.ldDtVx x) s = .next (s.setDt (s.getV x)) := rfl

theorem exec_ldStVx (s : State) (x : RegIx) : exec (.ldStVx x) s = .next (s.setSt (s.getV x)) := rfl

theorem soundOn_iff (s : State) : s.soundOn = true ↔ 0 < s.st.toNat := decide_eq_true_iff

/-- Settles O36: each instruction is one timer update, and `sound_on` reads `ST` alone. -/
theorem timerWrites : Obligations.TimerWrites :=
  ⟨fun s x => ⟨_, exec_ldDtVx s x, State.setDt_dt s _, sameExcept_setDt s _⟩,
   fun s x => ⟨_, exec_ldStVx s x, State.setSt_st s _, soundOn_iff _, sameExcept_setSt s _⟩⟩

/-! ### One key's state (R263) -/

section KeyUpdate

variable (s : State) (k : RegIx)

theorem State.key_setKeyState_self (b : Bool) : (s.setKeyState k b).key k = b := by
  rw [State.key_setKeyState, if_pos rfl]

theorem State.key_setKeyState_ne (b : Bool) {j : RegIx} (h : j ≠ k) : (s.setKeyState k b).key j = s.key j := by
  rw [State.key_setKeyState, if_neg h]

theorem sameExcept_setKeyState (b : Bool) : SameExcept [.keys] s (s.setKeyState k b) := by
  intro p hp; cases p <;> simp_all [Same, State.pixel]

theorem setKey_toNat {s : State} (b : Bool) (h : s.isFaulted = false) :
    setKey k.toNat b s = .next (s.setKeyState k b) := by
  rw [setKey_next (Nat.le_of_lt_succ k.isLt) h, BitVec.ofNat_toNat, BitVec.setWidth_eq]

theorem setKey_refused {n : Nat} (b : Bool) (h : 15 < n) : setKey n b s = .refused .keyIndexOutsideInterface :=
  if_pos h

end KeyUpdate

/-- Settles O49: the port refuses an index above 15 first, and for any other it is one `setKeyState`. -/
theorem setKeySetsOneKey : Obligations.SetKeySetsOneKey :=
  ⟨fun s k b h => ⟨_, setKey_toNat k b (isFaulted_eq_false h), State.key_setKeyState_self s k b,
    fun _ hj => State.key_setKeyState_ne s k b hj, sameExcept_setKeyState s k b⟩,
   fun s _ b h => setKey_refused s b h⟩

/-! ### The key press (R264) -/

/-- The state after key `k` ends the wait of `V[x]`. -/
def State.endWait (s : State) (x k : RegIx) : State :=
  ((s.setV x (k.setWidth 8)).setMode .running).emit (.keyWaitResolved x k)

section KeyPress

variable {s : State} (x k : RegIx)

theorem resolveWait_waiting {x : RegIx} (h : s.mode = .waitingForKey x) : resolveWait k s = s.endWait x k := by
  rw [resolveWait, h]; rfl

theorem resolveWait_running (h : s.mode = .running) : resolveWait k s = s := by
  rw [resolveWait, h]

theorem keyPress_toNat (h : s.isFaulted = false) :
    keyPress k.toNat s = .next (resolveWait k (s.setKeyState k true)) := by
  rw [keyPress_next (Nat.le_of_lt_succ k.isLt) h, BitVec.ofNat_toNat, BitVec.setWidth_eq]

theorem keyPress_waiting {x : RegIx} (h : s.mode = .waitingForKey x) :
    keyPress k.toNat s = .next ((s.setKeyState k true).endWait x k) := by
  rw [keyPress_toNat k (isFaulted_waiting h), resolveWait_waiting k (s := s.setKeyState k true) h]

theorem keyPress_running (h : s.mode = .running) : keyPress k.toNat s = .next (s.setKeyState k true) := by
  rw [keyPress_toNat k (isFaulted_eq_false (by simp [h])), resolveWait_running k (s := s.setKeyState k true) h]

theorem keyPress_refused {n : Nat} (h : 15 < n) : keyPress n s = .refused .keyIndexOutsideInterface := if_pos h

variable (s)

theorem State.getV_endWait (j : RegIx) : (s.endWait x k).getV j = if j = x then k.setWidth 8 else s.getV j := by
  rw [State.endWait, State.getV_emit, State.getV_setMode, State.getV_setV]

/-- A key's index fits the register. -/
theorem State.getV_endWait_self_toNat : ((s.endWait x k).getV x).toNat = k.toNat := by
  rw [State.getV_endWait, if_pos rfl, BitVec.toNat_setWidth_of_le (by decide)]

theorem regsSameExcept_endWait : RegsSameExcept [x] s (s.endWait x k) := by
  intro j hj
  rw [State.getV_endWait, if_neg (by simpa using hj)]

theorem State.key_endWait (j : RegIx) : (s.endWait x k).key j = s.key j := rfl

theorem sameExcept_endWait : SameExcept [.v, .mode, .events] s (s.endWait x k) := by
  intro p hp; cases p <;> simp_all [Same, State.endWait, State.key, State.pixel]

end KeyPress

theorem Same.trans {p : Part} {s t u : State} (hst : Same p s t) (htu : Same p t u) : Same p s u := by
  cases p <;> simp_all [Same]

theorem SameExcept.trans {s t u : State} {ps qs : List Part} (hst : SameExcept ps s t) (htu : SameExcept qs t u) :
    SameExcept (ps ++ qs) s u := by
  intro p hp
  obtain ⟨hps, hqs⟩ : p ∉ ps ∧ p ∉ qs := by simpa using hp
  exact (hst p hps).trans (htu p hqs)

/-- Settles O50: the press sets its key; in a key wait `endWait` follows, in a running state nothing, and an index above
15 is refused first. -/
theorem keyPressEndsTheWait : Obligations.KeyPressEndsTheWait := by
  refine ⟨fun s x k h => ?_, fun s k h => ?_, fun _ _ h => keyPress_refused h⟩
  · have hframe : SameExcept ([.keys] ++ [.v, .mode, .events]) s ((s.setKeyState k true).endWait x k) :=
      (sameExcept_setKeyState s k true).trans (sameExcept_endWait _ x k)
    exact ⟨_, keyPress_waiting k h, rfl, State.getV_endWait_self_toNat _ x k, regsSameExcept_endWait _ x k,
      State.key_setKeyState_self s k true, fun _ hj => State.key_setKeyState_ne s k true hj, rfl,
      hframe.mono (by simp)⟩
  · exact ⟨_, keyPress_running k h, State.key_setKeyState_self s k true,
      fun _ hj => State.key_setKeyState_ne s k true hj, sameExcept_setKeyState s k true⟩

end Sys2Proof.Machine
end

section
/-! PROOFS. Runs (70_reset_and_hazards.md R301, 60_exceptions.md R270): what every move of the host keeps, every run
keeps. A move other than a step reaches nothing that the invariant or the parameters read. -/

namespace Sys2Proof.Machine

/-- What every move keeps holds after every run. -/
theorem actAll_keeps {P : State → Prop} (hact : ∀ a s t, P s → act a s = .next t → P t) :
    ∀ moves s t, P s → actAll moves s = .next t → P t := by
  intro moves
  induction moves with
  | nil =>
    intro s t hs h
    cases h
    exact hs
  | cons a rest ih =>
    intro s t hs h
    rw [actAll] at h
    cases ha : act a s with
    | next u =>
      rw [ha] at h
      exact ih u t (hact a s u hs ha) h
    | fault f => rw [ha] at h; cases h
    | refused r => rw [ha] at h; cases h

/-! ### The host's ports (60_exceptions.md R259, R263, R264) -/

/-- The two states differ at most in what the ports `tick`, `set_key` and `key_press` write: registers, timers, keys,
the run state and the events. -/
def DiffersByPorts (s t : State) : Prop :=
  t = { s with v := t.v, dt := t.dt, st := t.st, keys := t.keys, mode := t.mode, events := t.events }

section Ports

variable {s t : State}

theorem differsByPorts_tick (s : State) : DiffersByPorts s (tick s) := by
  cases hf : s.isFaulted with
  | true => rw [tick_faulted hf]; rfl
  | false => rw [tick_running hf]; rfl

theorem differsByPorts_resolveWait (k : RegIx) (b : Bool) :
    DiffersByPorts s (resolveWait k (s.setKeyState k b)) := by
  cases hm : s.mode with
  | running => rw [resolveWait_running k (s := s.setKeyState k b) hm]; rfl
  | waitingForKey x => rw [resolveWait_waiting k (s := s.setKeyState k b) hm]; rfl
  | faulted f => rw [resolveWait, State.setKeyState_mode, hm]; rfl

theorem differsByPorts_of_setKey {k : Nat} {b : Bool} (h : setKey k b s = .next t) : DiffersByPorts s t := by
  unfold setKey at h
  split_ifs at h
  · cases h; rfl
  · cases h; rfl

theorem differsByPorts_of_keyPress {k : Nat} (h : keyPress k s = .next t) : DiffersByPorts s t := by
  unfold keyPress at h
  split_ifs at h
  · cases h; rfl
  · cases h; exact differsByPorts_resolveWait _ _

/-- Everything a move can do: it is a step, or it writes no more than a port. -/
theorem act_cases {a : Action} (h : act a s = .next t) : step s = .next t ∨ DiffersByPorts s t := by
  cases a with
  | step => exact .inl h
  | tick => cases h; exact .inr (differsByPorts_tick s)
  | setKey k b => exact .inr (differsByPorts_of_setKey h)
  | keyPress k => exact .inr (differsByPorts_of_keyPress h)

theorem DiffersByPorts.inv (h : DiffersByPorts s t) (hs : s.Inv) : t.Inv := by
  rw [h]; exact hs

theorem DiffersByPorts.params (h : DiffersByPorts s t) : t.params = s.params := by
  rw [h]

end Ports

/-! ### The parameters (00_scope.md R8) -/

theorem exec_params {i : Instr} {s t : State} (h : exec i s = .next t) : t.params = s.params :=
  instructionsChangeOnlyTheirParts i s t h .params (by cases i <;> simp [Instr.mayChange])

theorem step_params {s t : State} (h : step s = .next t) : t.params = s.params := by
  rcases step_cases s with ⟨_, he⟩ | ⟨_, _, he⟩ | ⟨_, _, _, _, he⟩ | ⟨_, _, i, _, he⟩
  · cases he.symm.trans h; rfl
  · cases he.symm.trans h; rfl
  · cases he.symm.trans h; rfl
  · exact exec_params (s := s.advancePc) (he.symm.trans h)

/-! ### Every move -/

theorem act_inv {a : Action} {s t : State} (hs : s.Inv) (h : act a s = .next t) : t.Inv := by
  rcases act_cases h with h | h
  · exact stepKeepsInvariant s t hs h
  · exact h.inv hs

theorem act_params {a : Action} {s t : State} (h : act a s = .next t) : t.params = s.params := by
  rcases act_cases h with h | h
  · exact step_params h
  · exact h.params

/-- Settles O57: a step keeps the invariant and the parameters, a port reaches neither, and what every move keeps every
run keeps. -/
theorem runsKeepInvariant : Obligations.RunsKeepInvariant := by
  intro moves s t hs h
  have hparams : ∀ a u w, u.params = s.params → act a u = .next w → w.params = s.params :=
    fun _ _ _ hu ha => (act_params ha).trans hu
  exact ⟨actAll_keeps (fun _ _ _ => act_inv) moves s t hs h, actAll_keeps hparams moves s t rfl h⟩

end Sys2Proof.Machine
end

section
/-! PROOFS. `VF_ORDER` (00_scope.md R14, 70_reset_and_hazards.md R296): only `writeWithFlag` reads it, and there the two
orders differ on `VF` alone. -/

namespace Sys2Proof.Machine

open Config

/-! ### The one operation that reads `VF_ORDER` (R14) -/

theorem State.setV_comm (s : State) {x y : RegIx} (h : x ≠ y) (a b : Byte) :
    (s.setV x a).setV y b = (s.setV y b).setV x a := by
  have hn : x.toNat ≠ y.toNat := fun he => h (BitVec.eq_of_toNat_eq he)
  simp only [State.setV, Vector.set_comm _ _ hn]

/-- Outside `VF` the two writes may come in either order. -/
theorem State.writeWithFlag_of_ne (s : State) {x : RegIx} (h : x ≠ vfIx) (r g : Byte) :
    s.writeWithFlag x r g = (s.setV x r).setV vfIx g := by
  unfold State.writeWithFlag
  split
  · rfl
  · exact (s.setV_comm h r g).symm

section Commutes

variable {s t : State} (q : VfOrder)

theorem writeWithFlag_withVfOrder {x : RegIx} (h : x ≠ vfIx) (r g : Byte) :
    (s.withVfOrder q).writeWithFlag x r g = (s.writeWithFlag x r g).withVfOrder q := by
  rw [State.writeWithFlag_of_ne _ h, State.writeWithFlag_of_ne _ h]
  rfl

/-! ### The operations that do not read it -/

theorem skipIf_withVfOrder (b : Bool) : (s.withVfOrder q).skipIf b = (s.skipIf b).withVfOrder q := by
  cases b <;> rfl

theorem checkedAccess_withVfOrder {kind : AccessKind} {op : Word} {count : Nat} {done : State}
    (h : checkedAccess kind op count s done = .next t) :
    checkedAccess kind op count (s.withVfOrder q) (done.withVfOrder q) = .next (t.withVfOrder q) := by
  rcases checkedAccess_cases h with ⟨hr, rfl⟩ | ⟨h1, h2, rfl⟩
  · exact checkedAccess_in_range hr
  · exact checkedAccess_out_of_range h1 h2

theorem skipOnKey_withVfOrder {op : Word} {x : RegIx} {down : Bool} (h : skipOnKey op x down s = .next t) :
    skipOnKey op x down (s.withVfOrder q) = .next (t.withVfOrder q) := by
  rcases skipOnKey_cases h with ⟨k, hk, rfl⟩ | ⟨hk, rfl⟩
  · rw [← skipIf_withVfOrder]
    exact skipOnKey_some (s := s.withVfOrder q) hk
  · exact skipOnKey_none (s := s.withVfOrder q) hk

theorem exec_addI_withVfOrder {x : RegIx} (h : exec (.addI x) s = .next t) :
    exec (.addI x) (s.withVfOrder q) = .next (t.withVfOrder q) := by
  rcases exec_addI_cases h with ⟨hf | hw, rfl⟩ | ⟨hf, hp, rfl⟩
  · exact exec_addI_fits (s := s.withVfOrder q) hf
  · exact exec_addI_wraps (s := s.withVfOrder q) hw
  · exact exec_addI_faults (s := s.withVfOrder q) hf hp

theorem exec_call_withVfOrder {nnn : Addr} (h : exec (.call nnn) s = .next t) :
    exec (.call nnn) (s.withVfOrder q) = .next (t.withVfOrder q) := by
  rcases exec_call_cases h with ⟨hsp, rfl⟩ | ⟨hsp, rfl⟩
  · exact exec_call_push (s := s.withVfOrder q) hsp
  · exact exec_call_full (s := s.withVfOrder q) hsp

theorem exec_ret_withVfOrder {x : Nibble} (h : exec (.ret x) s = .next t) :
    exec (.ret x) (s.withVfOrder q) = .next (t.withVfOrder q) := by
  rcases exec_ret_cases h with ⟨hsp, rfl⟩ | ⟨hsp, rfl⟩
  · exact exec_ret_pop (s := s.withVfOrder q) hsp
  · exact exec_ret_empty (s := s.withVfOrder q) hsp

end Commutes

/-- Settles O20: the two write orders agree outside `VF`, and every other operation does not read `VF_ORDER`. -/
theorem vfOrderMattersOnlyForItsOwnCase : Obligations.VfOrderMattersOnlyForItsOwnCase := by
  intro i s t q hi h
  cases i with
  | addReg x y | sub x y | shr x y | subn x y | shl x y =>
    cases h; exact congrArg Host.Outcome.next (writeWithFlag_withVfOrder q hi _ _)
  | seByte x kk | sneByte x kk | seReg x y n | sneReg x y n =>
    cases h; exact congrArg Host.Outcome.next (skipIf_withVfOrder q _)
  | drw x y n | ldB x | ldMemVx x | ldVxMem x => exact checkedAccess_withVfOrder q h
  | skp x | sknp x => exact skipOnKey_withVfOrder q h
  | addI x => exact exec_addI_withVfOrder q h
  | call nnn => exact exec_call_withVfOrder q h
  | ret x => exact exec_ret_withVfOrder q h
  | _ => cases h; rfl

end Sys2Proof.Machine
end

section
/-! PROOFS. Boot (70_reset_and_hazards.md R292, 10_state.md R39): the boot image is 4096 bytes long, and loading it
makes byte `a` of the image the byte at address `a`. -/

namespace Sys2Proof.Machine

open Config

/-! ### The boot image -/

section BootImage

variable {p : Params} {font program : List Byte}

theorem bootImage_font {j : Nat} (hj : j < font.length) :
    (bootImage p font program)[p.fontBase.val + j]? = some font[j] := by
  rw [bootImage, List.append_assoc, List.append_assoc, List.append_assoc, List.getElem?_append_right (by simp),
    List.length_replicate, Nat.add_sub_cancel_left, List.getElem?_append_left hj, List.getElem?_eq_getElem hj]

variable (hf : font.length = 80)

include hf

theorem length_bootImage (hp : program.length ≤ 0xE00) : (bootImage p font program).length = 4096 := by
  have hb := p.fontBase.isLt
  simp only [bootImage, List.length_append, List.length_replicate, hf]
  omega

theorem bootImage_program {j : Nat} (hj : j < program.length) :
    (bootImage p font program)[0x200 + j]? = some program[j] := by
  have hb := p.fontBase.isLt
  have hl : (List.replicate p.fontBase.val 0#8 ++ font ++ List.replicate (432 - p.fontBase.val) 0#8).length
      = 0x200 := by
    simp only [List.length_append, List.length_replicate, hf]
    omega
  rw [bootImage, List.append_assoc, List.getElem?_append_right (by omega), hl, Nat.add_sub_cancel_left,
    List.getElem?_append_left hj, List.getElem?_eq_getElem hj]

/-- Outside the font and the program the image has the zeros before, between and after them. -/
theorem bootImage_elsewhere {a : Nat} (ha : a < 0x1000) (hfont : a < p.fontBase.val ∨ p.fontBase.val + 80 ≤ a)
    (hprog : a < 0x200 ∨ 0x200 + program.length ≤ a) : (bootImage p font program)[a]? = some 0#8 := by
  have hb := p.fontBase.isLt
  simp only [bootImage, List.getElem?_append, List.length_append, List.length_replicate, hf]
  split_ifs
  · exact List.getElem?_replicate_of_lt (by omega)
  · omega
  · exact List.getElem?_replicate_of_lt (by omega)
  · omega
  · exact List.getElem?_replicate_of_lt (by omega)

end BootImage

/-! ### The booted machine -/

/-- After a block is written from address 0 on, the byte at an address is the block's byte there. -/
theorem Memory.read_writeBytes_zero {m : Memory} {bs : List Byte} {a : Nat} {b : Byte} (h : bs[a]? = some b) :
    (m.writeBytes 0 bs).read a = b := by
  obtain ⟨hl, rfl⟩ := List.getElem?_eq_some_iff.mp h
  rw [Memory.read_writeBytes, dif_pos ⟨Nat.zero_le a, hl⟩]
  rfl

/-- The machine constructed from an image (10_state.md R37). -/
def State.constructed (init : State) (p : Params) (image : List Byte) (entry : Word) : State :=
  { init with
    mem := Memory.writeBytes [] 0 image, pc := entry, sp := 0, mode := .running, events := [], params := p }

theorem boot_next {init : State} {p : Params} {font program : List Byte} {entry : Word} (hf : font.length = 80)
    (hp : program.length ≤ 0xE00) :
    boot init p font program entry = .next (init.constructed p (bootImage p font program) entry) := by
  rw [boot, if_pos ⟨hf, hp⟩, load, if_pos (length_bootImage hf hp)]
  rfl

theorem inv_constructed {init : State} {p : Params} {image : List Byte} {entry : Word} (hl : image.length = 4096)
    (he : entry.toNat ≤ 0x10FE) : (init.constructed p image entry).Inv :=
  ⟨Memory.wf_writeBytes image Memory.wf_nil (by omega), he, fun j _ hj => absurd hj (Nat.not_lt_zero j)⟩

theorem sameExcept_constructed (init : State) (p : Params) (image : List Byte) (entry : Word) :
    SameExcept [.mem, .pc, .sp, .mode, .events, .params] init (init.constructed p image entry) := by
  intro q hq
  cases q <;> simp_all [Same, State.constructed, State.getV, State.key, State.pixel]

/-- Settles O59: the machine is constructed from the boot image, whose font, program and zero parts are read at their
addresses. -/
theorem bootLaysOutMemory : Obligations.BootLaysOutMemory := by
  intro init p font program entry hf hp
  refine ⟨_, boot_next hf hp, rfl, rfl, rfl, rfl, rfl, fun j hj => ?_, fun j hj => ?_, fun a ha hfont hprog => ?_,
    inv_constructed (length_bootImage hf hp), sameExcept_constructed init p _ entry⟩
  · exact Memory.read_writeBytes_zero (bootImage_font hj)
  · exact Memory.read_writeBytes_zero (bootImage_program hf hj)
  · exact Memory.read_writeBytes_zero (bootImage_elsewhere hf ha hfont hprog)

end Sys2Proof.Machine
end

section
/-! PROOFS. The decoder against the encoder and against the opcode map (30_encoding.md R83 to R85): a well-formed
instruction is read back from its word, and in each family the decoder's tests are the rows of that family. -/

namespace Sys2Proof.Machine

open Config

/-! ### Family 0 (R85) -/

section FamilyZero

variable {z : ZeroFamilyMatch} {op : Word}

theorem decodeFamily0_cls (hz : zeroFamilyMatches z op = true) (hk : fieldKk op = 0xE0#8) :
    decodeFamily0 z op = .cls (fieldX op) := by
  rw [decodeFamily0, if_pos hz, if_pos hk]

theorem decodeFamily0_ret (hz : zeroFamilyMatches z op = true) (hk : fieldKk op = 0xEE#8) :
    decodeFamily0 z op = .ret (fieldX op) := by
  rw [decodeFamily0, if_pos hz, hk]
  rfl

theorem decodeFamily0_sys (h : sysOperandOk z (fieldNnn op) = true) : decodeFamily0 z op = .sys (fieldNnn op) := by
  rw [sysOperandOk_fieldNnn_iff] at h
  unfold decodeFamily0
  split_ifs with hz h1 h2
  · exact absurd h1 (h hz).1
  · exact absurd h2 (h hz).2
  · rfl
  · rfl

theorem decode_of_family0 (hf : fieldFamily op = 0x0#4) : decode z op = .ok (decodeFamily0 z op) := by
  rw [decode, hf]; rfl

end FamilyZero

/-! ### The round trip -/

/-- Outside family 0 the fields of the word alone decide; there the nibble and the operand must be the row's own. -/
theorem decode_encode {z : ZeroFamilyMatch} {i : Instr} (h : i.wellFormed z = true) : decode z (encode i) = .ok i := by
  cases i with
  | sys nnn =>
    have hn : fieldNnn (encode (.sys nnn)) = nnn := fieldNnn_wordNnn 0x0 nnn
    rw [decode_of_family0 (Laws.TopNibble.sys nnn), decodeFamily0_sys (by rwa [hn]), hn]
  | cls x =>
    have hx : fieldX (encode (.cls x)) = x := fieldX_wordXKk 0x0 x 0xE0#8
    have hz : zeroFamilyMatches z (encode (.cls x)) = true := by rw [← zeroNibbleOk_fieldX, hx]; exact h
    rw [decode_of_family0 (Laws.TopNibble.cls x), decodeFamily0_cls hz (fieldKk_wordXKk 0x0 x 0xE0#8), hx]
  | ret x =>
    have hx : fieldX (encode (.ret x)) = x := fieldX_wordXKk 0x0 x 0xEE#8
    have hz : zeroFamilyMatches z (encode (.ret x)) = true := by rw [← zeroNibbleOk_fieldX, hx]; exact h
    rw [decode_of_family0 (Laws.TopNibble.ret x), decodeFamily0_ret hz (fieldKk_wordXKk 0x0 x 0xEE#8), hx]
  | ldReg x y | orReg x y | andReg x y | xorReg x y | addReg x y | sub x y | shr x y | subn x y | shl x y =>
    simp [encode, decode, decodeFamily8]
  | skp x | sknp x => simp [encode, decode, decodeFamilyE]
  | ldVxDt x | ldVxK x | ldDtVx x | ldStVx x | addI x | ldF x | ldB x | ldMemVx x | ldVxMem x =>
    simp [encode, decode, decodeFamilyF]
  | jp nnn | call nnn | ldI nnn | jpV0 nnn | seByte x kk | sneByte x kk | ldByte x kk | addByte x kk | rnd x kk
  | seReg x y n | sneReg x y n | drw x y n => simp [encode, decode]

/-- Settles O1: the fields of an instruction's word are its operands, and the second key is its row's. -/
theorem decodeEncodeRoundTrip : Obligations.DecodeEncodeRoundTrip :=
  fun _ _ h => decode_encode h

/-- Settles O5: the decoder evaluated on each word. -/
theorem specWordsDecode : Obligations.SpecWordsDecode := by
  unfold Obligations.SpecWordsDecode
  decide

/-! ### The rows of one family (R83, R84) -/

/-- The rows of the opcode map whose pattern is in family `f`, in the map's order. -/
def familyRows (z : ZeroFamilyMatch) (f : Nibble) : List MapRow :=
  (opcodeMap z).filter fun r => fieldFamily r.pattern = f

/-- Every mask of the map keeps the whole family nibble. -/
theorem fieldFamily_mask {z : ZeroFamilyMatch} {r : MapRow} (hr : r ∈ opcodeMap z) : fieldFamily r.mask = 0xF#4 := by
  have hall : ∀ q ∈ opcodeMap z, fieldFamily q.mask = 0xF#4 := by cases z <;> decide
  exact hall r hr

theorem fieldFamily_and (op m : Word) : fieldFamily (op &&& m) = fieldFamily op &&& fieldFamily m :=
  BitVec.extractLsb'_and

/-- A row matches words of its own family only. -/
theorem fieldFamily_of_matches {z : ZeroFamilyMatch} {r : MapRow} {op : Word} (hr : r ∈ opcodeMap z)
    (h : op &&& r.mask = r.pattern) : fieldFamily r.pattern = fieldFamily op := by
  rw [← h, fieldFamily_and, fieldFamily_mask hr]
  exact BitVec.and_allOnes

/-- Only the rows of the word's own family take part in the search. -/
theorem mapRowOf_eq_familyRows (z : ZeroFamilyMatch) (op : Word) : mapRowOf z op =
    ((familyRows z (fieldFamily op)).find? fun r => op &&& r.mask = r.pattern).map MapRow.number := by
  rw [mapRowOf, familyRows, List.find?_filter]
  refine congrArg _ (List.find?_congr fun r hr => ?_)
  have hfam : op &&& r.mask = r.pattern → fieldFamily r.pattern = fieldFamily op := fieldFamily_of_matches hr
  simpa using hfam

section Families

variable {z : ZeroFamilyMatch} {op : Word} {f : Nibble}

/-! Within its family a word matches a row exactly when it has the row's second key. -/

theorem and_F000_of_family (hf : fieldFamily op = f) : op &&& 0xF000#16 = wordNnn f 0#12 := by
  rw [and_F000, hf]

theorem and_F00F_eq_iff_of_family (hf : fieldFamily op = f) (n : Nibble) :
    op &&& 0xF00F#16 = wordXYN f 0#4 0#4 n ↔ (fieldN op).toNat = n.toNat := by
  rw [and_F00F, hf, BitVec.toNat_inj]
  exact ⟨fun h => by simpa using congrArg fieldN h, fun h => by rw [h]⟩

theorem and_F0FF_eq_iff_of_family (hf : fieldFamily op = f) (k : Byte) :
    op &&& 0xF0FF#16 = wordXKk f 0#4 k ↔ fieldKk op = k := by
  rw [and_F0FF, hf]
  exact ⟨fun h => by simpa using congrArg fieldKk h, fun h => by rw [h]⟩

theorem and_zeroMask_eq_iff_of_family0 (hf : fieldFamily op = 0x0#4) (k : Byte) :
    op &&& zeroMask z = wordXKk 0x0#4 0#4 k ↔ zeroFamilyMatches z op = true ∧ fieldKk op = k := by
  have hk : (wordXKk 0x0#4 0#4 k).toNat = k.toNat := by rw [wordXKk_toNat]; simp
  have hn : op.toNat / 4096 = 0 := (fieldFamily_eq_iff op _).mp hf
  rw [and_zeroMask_eq_iff z op _ (hk ▸ k.isLt), hk, fieldKk_eq_iff, hn, and_comm]
  simp

theorem mapRowOf_of_family0 (hf : fieldFamily op = 0x0#4) :
    mapRowOf z op = some (decodeFamily0 z op).rowNumber := by
  have hrows : familyRows z 0x0#4 = [⟨2, wordXKk 0x0#4 0#4 0xE0#8, zeroMask z⟩,
      ⟨3, wordXKk 0x0#4 0#4 0xEE#8, zeroMask z⟩, ⟨1, wordNnn 0x0#4 0#12, 0xF000#16⟩] := by cases z <;> rfl
  rw [mapRowOf_eq_familyRows, hf, hrows]
  simp only [find_number_cons, and_zeroMask_eq_iff_of_family0 hf, and_F000_of_family hf, decide_eq_true_eq]
  cases hz : zeroFamilyMatches z op with
  | false => simp [decodeFamily0, hz, Instr.rowNumber]
  | true =>
    simp only [decodeFamily0, hz, true_and, if_true, apply_ite Instr.rowNumber, apply_ite some]
    rfl

theorem mapRowOf_of_family8 (hf : fieldFamily op = 0x8#4) : mapRowOf z op = decodedRow (decodeFamily8 op) := by
  have hrows : familyRows z 0x8#4 = [⟨11, wordXYN 0x8#4 0#4 0#4 0x0#4, 0xF00F#16⟩,
      ⟨12, wordXYN 0x8#4 0#4 0#4 0x1#4, 0xF00F#16⟩, ⟨13, wordXYN 0x8#4 0#4 0#4 0x2#4, 0xF00F#16⟩,
      ⟨14, wordXYN 0x8#4 0#4 0#4 0x3#4, 0xF00F#16⟩, ⟨15, wordXYN 0x8#4 0#4 0#4 0x4#4, 0xF00F#16⟩,
      ⟨16, wordXYN 0x8#4 0#4 0#4 0x5#4, 0xF00F#16⟩, ⟨17, wordXYN 0x8#4 0#4 0#4 0x6#4, 0xF00F#16⟩,
      ⟨18, wordXYN 0x8#4 0#4 0#4 0x7#4, 0xF00F#16⟩, ⟨19, wordXYN 0x8#4 0#4 0#4 0xE#4, 0xF00F#16⟩] := by cases z <;> rfl
  rw [mapRowOf_eq_familyRows, hf, hrows]
  unfold decodeFamily8
  split <;> simp_all [and_F00F_eq_iff_of_family hf, decodedRow, Instr.rowNumber]

theorem mapRowOf_of_familyE (hf : fieldFamily op = 0xE#4) : mapRowOf z op = decodedRow (decodeFamilyE op) := by
  have hrows : familyRows z 0xE#4 =
      [⟨25, wordXKk 0xE#4 0#4 0x9E#8, 0xF0FF#16⟩, ⟨26, wordXKk 0xE#4 0#4 0xA1#8, 0xF0FF#16⟩] := by cases z <;> rfl
  rw [mapRowOf_eq_familyRows, hf, hrows]
  simp only [find_number_cons, and_F0FF_eq_iff_of_family hf, decide_eq_true_eq]
  simp only [decodeFamilyE, apply_ite decodedRow]
  rfl

theorem mapRowOf_of_familyF (hf : fieldFamily op = 0xF#4) : mapRowOf z op = decodedRow (decodeFamilyF op) := by
  have hrows : familyRows z 0xF#4 = [⟨27, wordXKk 0xF#4 0#4 0x07#8, 0xF0FF#16⟩,
      ⟨28, wordXKk 0xF#4 0#4 0x0A#8, 0xF0FF#16⟩, ⟨29, wordXKk 0xF#4 0#4 0x15#8, 0xF0FF#16⟩,
      ⟨30, wordXKk 0xF#4 0#4 0x18#8, 0xF0FF#16⟩, ⟨31, wordXKk 0xF#4 0#4 0x1E#8, 0xF0FF#16⟩,
      ⟨32, wordXKk 0xF#4 0#4 0x29#8, 0xF0FF#16⟩, ⟨33, wordXKk 0xF#4 0#4 0x33#8, 0xF0FF#16⟩,
      ⟨34, wordXKk 0xF#4 0#4 0x55#8, 0xF0FF#16⟩, ⟨35, wordXKk 0xF#4 0#4 0x65#8, 0xF0FF#16⟩] := by cases z <;> rfl
  rw [mapRowOf_eq_familyRows, hf, hrows]
  simp only [find_number_cons, and_F0FF_eq_iff_of_family hf, decide_eq_true_eq]
  simp only [decodeFamilyF, apply_ite decodedRow]
  rfl

/-- A family with one row: every word of it matches that row. -/
theorem mapRowOf_of_single {c k : Nat} (hc : (fieldFamily op).toNat = c)
    (hrows : familyRows z (BitVec.ofNat 4 c) = [⟨k, wordNnn (BitVec.ofNat 4 c) 0#12, 0xF000#16⟩]) :
    mapRowOf z op = some k := by
  have hf : fieldFamily op = BitVec.ofNat 4 c := by rw [← hc, BitVec.ofNat_toNat, BitVec.setWidth_eq]
  rw [mapRowOf_eq_familyRows, hf, hrows]
  simp [and_F000_of_family hf]

end Families

/-- Settles O3: family by family, the decoder's tests in their order are the tests of the family's rows in theirs. -/
theorem decoderFollowsOpcodeMap : Obligations.DecoderFollowsOpcodeMap := by
  intro z op
  unfold decode
  split
  case h_1 hf => exact (mapRowOf_of_family0 (BitVec.eq_of_toNat_eq hf)).symm
  case h_9 hf => exact (mapRowOf_of_family8 (BitVec.eq_of_toNat_eq hf)).symm
  case h_15 hf => exact (mapRowOf_of_familyE (BitVec.eq_of_toNat_eq hf)).symm
  case h_16 =>
    have := (fieldFamily op).isLt
    simp only [imp_false] at *
    have hf : (fieldFamily op).toNat = (0xF#4).toNat := by simp only [BitVec.toNat_ofNat]; omega
    exact (mapRowOf_of_familyF (BitVec.eq_of_toNat_eq hf)).symm
  all_goals
    rename_i hf
    exact (mapRowOf_of_single hf (by cases z <;> rfl)).symm

end Sys2Proof.Machine
end

section
/-! PROOFS. Jumps and the return stack (41_control.md R132 to R135), and `CLS` (R131): each is one update of `pc`, of
the stack or of the bitmap; a `RET` on the state after a `CALL` pops what was pushed. -/

namespace Sys2Proof.Machine

/-! ### Jumps (R133, R135) -/

theorem exec_jp (s : State) (nnn : Addr) : exec (.jp nnn) s = .next (s.setPc (zextAddr nnn)) := rfl

theorem exec_jpV0 (s : State) (nnn : Addr) :
    exec (.jpV0 nnn) s = .next (s.setPc (zextAddr nnn + zextByte (s.getV 0x0#4))) := rfl

/-- Settles O22: the jump is one update of `pc` with the address zero-extended. -/
theorem jumpSetsPc : Obligations.JumpSetsPc :=
  fun s nnn => ⟨_, exec_jp s nnn, zextAddr_toNat nnn, sameExcept_setPc s _⟩

/-- Settles O23: the sum of a 12-bit address and a byte fits the 16 bits of `pc`. -/
theorem jumpV0AddsUnmasked : Obligations.JumpV0AddsUnmasked := by
  intro s nnn
  have hsum : (zextAddr nnn + zextByte (s.getV 0x0#4)).toNat = nnn.toNat + (s.getV 0x0#4).toNat := by
    have hn := nnn.isLt
    have hv := (s.getV 0x0#4).isLt
    rw [BitVec.toNat_add, zextAddr_toNat, zextByte_toNat]
    omega
  exact ⟨_, exec_jpV0 s nnn, hsum, sameExcept_setPc s _⟩

/-! ### The return stack (R132, R134) -/

/-- Settles O24: with a free place `CALL` is one push of `pc` and a jump. -/
theorem callPushesReturnAddress : Obligations.CallPushesReturnAddress := by
  intro s nnn h
  refine ⟨_, exec_call_push h, rfl, zextAddr_toNat nnn, Vector.getElem_set_self h, fun j hj hne => ?_,
    sameExcept_push s _ _ _⟩
  exact Vector.getElem_set_ne h hj hne.symm

/-- Settles O25: with `j + 1` return addresses pushed `RET` takes entry `j` and leaves the entries as they are. -/
theorem retPopsReturnAddress : Obligations.RetPopsReturnAddress := by
  intro s x j hj hsp
  refine ⟨_, exec_ret_pop (by omega), ?_, ?_, sameExcept_pop s _ _⟩
  · simp only [hsp, Nat.add_sub_cancel]
  · simp only [hsp, Nat.add_sub_cancel]

/-- Settles O26: neither instruction finds a place or an entry, so each enters its fault. -/
theorem stackFaults : Obligations.StackFaults :=
  ⟨fun _ _ h => ⟨_, exec_call_full h, rfl⟩, fun _ _ h => ⟨_, exec_ret_empty h, rfl⟩⟩

/-- A `RET` on the state after a `CALL` leaves the pushed entry above `sp` and nothing else changed. -/
theorem exec_ret_after_call {s t : State} {nnn : Addr} {x : Nibble} (hsp : s.sp.val < 16)
    (h : exec (.call nnn) s = .next t) :
    exec (.ret x) t = .next (s.withStack (s.stack.set s.sp.val s.pc hsp)) := by
  cases (exec_call_push hsp).symm.trans h
  rw [exec_ret_pop (Nat.succ_pos _)]
  simp [State.withStack]

theorem sameExcept_withStack (s : State) (st : Vector Word 16) : SameExcept [.stack] s (s.withStack st) := by
  intro p hp; cases p <;> simp_all [Same, State.withStack, State.getV, State.key, State.pixel]

/-- Settles O27: the `CALL` pushes `pc`, and the `RET` takes it back and the depth with it. -/
theorem callThenRetReturns : Obligations.CallThenRetReturns :=
  fun s _ _ h => ⟨_, _, exec_call_push h, exec_ret_after_call h (exec_call_push h), sameExcept_withStack s _⟩

/-! ### `CLS` (R131) -/

theorem exec_cls (s : State) (x : Nibble) :
    exec (.cls x) s = .next ({ s with display := blankDisplay }.emit .displayCleared) := rfl

/-- Settles O21: the bitmap becomes the blank one, and one event is added. -/
theorem clsClearsDisplay : Obligations.ClsClearsDisplay :=
  fun s x => ⟨_, exec_cls s x, blankDisplay_pixel, rfl, sameExcept_clear s _⟩

end Sys2Proof.Machine
end

section
/-! PROOFS. The skips (42_skips.md R150 to R153, 47_keys.md R240 to R242): each that completes is one `skipIf`, and the
key skips differ in how `V[x]` names a key. -/

namespace Sys2Proof.Machine

/-! ### Register and byte skips (R150 to R153) -/

/-- An instruction whose meaning is one `skipIf` skips when its test holds. -/
theorem skipsWhen_of_exec {i : Instr} {s : State} {b : Bool} {taken : Prop} (h : exec i s = .next (s.skipIf b))
    (hb : b = true ↔ taken) : SkipsWhen i s taken := by
  refine ⟨_, h, fun ht => ?_, fun hn => ?_, sameExcept_skipIf s b⟩
  · rw [State.skipIf_pc, if_pos (hb.mpr ht)]
  · rw [State.skipIf_pc, if_neg (mt hb.mp hn)]

section Skips

variable (s : State) (x y : RegIx) (kk : Byte) (n : Nibble)

theorem exec_seByte : exec (.seByte x kk) s = .next (s.skipIf (s.getV x == kk)) := rfl

theorem exec_sneByte : exec (.sneByte x kk) s = .next (s.skipIf (s.getV x != kk)) := rfl

theorem exec_seReg : exec (.seReg x y n) s = .next (s.skipIf (s.getV x == s.getV y)) := rfl

theorem exec_sneReg : exec (.sneReg x y n) s = .next (s.skipIf (s.getV x != s.getV y)) := rfl

theorem exec_skp : exec (.skp x) s = skipOnKey (encode (.skp x)) x true s := rfl

theorem exec_sknp : exec (.sknp x) s = skipOnKey (encode (.sknp x)) x false s := rfl

end Skips

/-- Settles O29: each instruction is one `skipIf` on the comparison of `V[x]` with the byte. -/
theorem skipsOnByte : Obligations.SkipsOnByte :=
  fun s x kk => ⟨skipsWhen_of_exec (exec_seByte s x kk) beq_iff_eq, skipsWhen_of_exec (exec_sneByte s x kk) bne_iff_ne⟩

/-- Settles O30: each instruction is one `skipIf` on the comparison of the registers, which the low nibble is not in. -/
theorem skipsOnRegisters : Obligations.SkipsOnRegisters :=
  fun s x y n =>
    ⟨skipsWhen_of_exec (exec_seReg s x y n) beq_iff_eq, skipsWhen_of_exec (exec_sneReg s x y n) bne_iff_ne⟩

/-! ### Key skips (R240 to R242) -/

theorem setWidth_eq_of_low_nibble {b : Byte} {k : RegIx} (h : b.toNat % 16 = k.toNat) : b.setWidth 4 = k :=
  BitVec.eq_of_toNat_eq ((BitVec.toNat_setWidth 4 b).trans h)

/-- Where `V[x]` names a key, `SKP` skips when it is down and `SKNP` when it is up. -/
theorem keySkips_of_keyIndex {s : State} {x k : RegIx} (h : keyIndex s.params (s.getV x) = some k) :
    SkipsWhen (.skp x) s (s.key k = true) ∧ SkipsWhen (.sknp x) s (s.key k = false) :=
  ⟨skipsWhen_of_exec ((exec_skp s x).trans (skipOnKey_some h)) beq_iff_eq,
   skipsWhen_of_exec ((exec_sknp s x).trans (skipOnKey_some h)) beq_iff_eq⟩

/-- Where `V[x]` names no key, both enter the fault of R242. -/
theorem keySkips_raise_of_keyIndex_none {s : State} {x : RegIx} (h : keyIndex s.params (s.getV x) = none) :
    Raises (.skp x) s (.keyIndexOutOfRange (s.pc - 2#16) (encode (.skp x)) (s.getV x)) ∧
      Raises (.sknp x) s (.keyIndexOutOfRange (s.pc - 2#16) (encode (.sknp x)) (s.getV x)) :=
  ⟨⟨_, (exec_skp s x).trans (skipOnKey_none h), rfl⟩, ⟨_, (exec_sknp s x).trans (skipOnKey_none h), rfl⟩⟩

/-- Settles O31: a value up to 15 names the key of that number under either `KEY_INDEX_OOR`. -/
theorem keySkipsTestTheKey : Obligations.KeySkipsTestTheKey := by
  intro s x k hk
  have hlt := k.isLt
  refine keySkips_of_keyIndex ((keyIndex_in_range (by omega)).trans (congrArg some ?_))
  exact setWidth_eq_of_low_nibble (by omega)

/-- Settles O32: above 15 a value names no key under `fault`, and the key of its low nibble under `low_nibble`. -/
theorem keyIndexAboveFifteen : Obligations.KeyIndexAboveFifteen := by
  intro s x hv
  refine ⟨fun hp => keySkips_raise_of_keyIndex_none (keyIndex_none hv hp), fun hp k hk => ?_⟩
  exact keySkips_of_keyIndex ((keyIndex_low_nibble hp).trans (congrArg some (setWidth_eq_of_low_nibble hk.symm)))

end Sys2Proof.Machine
end

section
/-! PROOFS. The effect of `DRW` on the bitmap (46_draw.md R225 to R227, R230): its target pixels are inverted and no
other, and two draws on the same targets undo each other. -/

namespace Sys2Proof.Machine

/-- A draw changes exactly its target pixels. -/
theorem State.pixel_drawAt_ne_iff {ps : List (Fin 64 × Fin 32)} (hn : ps.Nodup) (s : State) (px : Fin 64)
    (py : Fin 32) : (s.drawAt ps).pixel px py ≠ s.pixel px py ↔ (px, py) ∈ ps := by
  rw [State.pixel_drawAt hn]
  by_cases hp : (px, py) ∈ ps
  · simp [hp]
  · simp [hp]

theorem State.pixel_drawAt_drawAt {ps : List (Fin 64 × Fin 32)} (hn : ps.Nodup) (s : State) (px : Fin 64)
    (py : Fin 32) : ((s.drawAt ps).drawAt ps).pixel px py = s.pixel px py := by
  rw [State.pixel_drawAt hn, State.pixel_drawAt hn]
  by_cases hp : (px, py) ∈ ps
  · simp [hp]
  · simp [hp]

theorem State.getV_drawAt_ne {j : RegIx} (hj : j ≠ vfIx) (s : State) (ps : List (Fin 64 × Fin 32)) :
    (s.drawAt ps).getV j = s.getV j :=
  (s.getV_drawAt ps j).trans (if_neg hj)

/-- A draw leaves the sprite where it was, unless a coordinate is `VF`, which it writes. -/
theorem State.drawTargets_drawAt {x y : RegIx} (hx : x ≠ vfIx) (hy : y ≠ vfIx) (s : State) (n : Nibble)
    (ps : List (Fin 64 × Fin 32)) : (s.drawAt ps).drawTargets x y n = s.drawTargets x y n := by
  simp only [State.drawTargets, State.getV_drawAt_ne hx, State.getV_drawAt_ne hy, State.drawAt_mem, State.drawAt_i]

/-- Settles O45: the draw is in range, its targets are where the set bits of the sprite land, and they are inverted. -/
theorem drawXorsTheSprite : Obligations.DrawXorsTheSprite := by
  intro s x y n hr
  refine ⟨_, exec_drw_in_range x y hr, fun px py => ?_, rfl, fun j hj => ?_, sameExcept_drawAt s _⟩
  · exact (s.pixel_drawAt_ne_iff (nodup_drawTargets s x y n) px py).trans mem_drawTargets
  · exact s.getV_drawAt_ne (List.ne_of_not_mem_cons hj) _

/-- Settles O47: the second draw has the targets of the first and inverts them back. -/
theorem drawTwiceRestoresDisplay : Obligations.DrawTwiceRestoresDisplay := by
  intro s x y n hx hy hr
  have hagain := exec_drw_in_range (s := s.drawAt (s.drawTargets x y n)) x y hr
  rw [State.drawTargets_drawAt hx hy] at hagain
  exact ⟨_, _, exec_drw_in_range x y hr, hagain, s.pixel_drawAt_drawAt (nodup_drawTargets s x y n)⟩

end Sys2Proof.Machine
end

section
/-! PROOFS. The loads, the bitwise instructions and `RND` (43_alu.md R161 to R166, 44_index_timer_memory.md R192,
45_random.md R220), each one register written, and the instructions on `I` (44_index_timer_memory.md R190, R191). -/

namespace Sys2Proof.Machine

/-! ### One register written -/

section Meanings

variable (s : State) (x y : RegIx) (kk : Byte)

theorem exec_ldByte : exec (.ldByte x kk) s = .next (s.setV x kk) := rfl

theorem exec_ldReg : exec (.ldReg x y) s = .next (s.setV x (s.getV y)) := rfl

theorem exec_ldVxDt : exec (.ldVxDt x) s = .next (s.setV x s.dt) := rfl

theorem exec_orReg : exec (.orReg x y) s = .next (s.setV x (s.getV x ||| s.getV y)) := rfl

theorem exec_andReg : exec (.andReg x y) s = .next (s.setV x (s.getV x &&& s.getV y)) := rfl

theorem exec_xorReg : exec (.xorReg x y) s = .next (s.setV x (s.getV x ^^^ s.getV y)) := rfl

theorem exec_rnd : exec (.rnd x kk) s = .next (s.setV x (Config.randomByte s.draws &&& kk)).countDraw := rfl

end Meanings

/-- Settles O12: each load is one `setV`. -/
theorem loadsWriteTheirRegister : Obligations.LoadsWriteTheirRegister :=
  ⟨fun s x kk => writesRegister_of_exec (exec_ldByte s x kk), fun s x y => writesRegister_of_exec (exec_ldReg s x y),
   fun s x => writesRegister_of_exec (exec_ldVxDt s x)⟩

/-- Settles O14: each instruction is one `setV`, and writes no flag. -/
theorem bitwiseKeepTheFlag : Obligations.BitwiseKeepTheFlag :=
  fun s x y => ⟨writesRegister_of_exec (exec_orReg s x y), writesRegister_of_exec (exec_andReg s x y),
    writesRegister_of_exec (exec_xorReg s x y)⟩

/-- Settles O44: one `setV` of the drawn byte masked by `kk`, and one draw counted. -/
theorem randomIsMasked : Obligations.RandomIsMasked := by
  intro s x kk
  have hx : (s.setV x (Config.randomByte s.draws &&& kk)).countDraw.getV x = Config.randomByte s.draws &&& kk :=
    s.getV_setV_self x _
  refine ⟨_, exec_rnd s x kk, hx, fun b hb => ?_, rfl, regsSameExcept_setV s x _, sameExcept_drawByte s x _⟩
  rw [hx, BitVec.getLsbD_and, hb, Bool.and_false]

/-! ### The address register (R190, R191) -/

theorem exec_ldI (s : State) (nnn : Addr) : exec (.ldI nnn) s = .next (s.setI (zextAddr nnn)) := rfl

/-- Settles O33: the load is one update of `I` with the address zero-extended. -/
theorem loadIndexAddress : Obligations.LoadIndexAddress :=
  fun s nnn => ⟨_, exec_ldI s nnn, zextAddr_toNat nnn, sameExcept_setI s _⟩

/-- The sum of `I` and a byte, as 16 bits keep it. -/
theorem add_zextByte_toNat (w : Word) (b : Byte) : (w + zextByte b).toNat = (w.toNat + b.toNat) % 0x10000 := by
  rw [BitVec.toNat_add, zextByte_toNat]

/-- Settles O34: the sum fits, so the 16 bits of `I` keep all of it. -/
theorem addToIndexIsUnmasked : Obligations.AddToIndexIsUnmasked := by
  intro s x h
  refine ⟨_, exec_addI_fits h, ?_, sameExcept_setI s _⟩
  rw [State.setI_i, add_zextByte_toNat]
  omega

/-- Settles O35: `I_OVERFLOW` decides between the fault and the sum less 0x10000. -/
theorem addToIndexPastSixteenBits : Obligations.AddToIndexPastSixteenBits := by
  intro s x h
  refine ⟨fun hp => ⟨_, exec_addI_faults h hp, rfl⟩, fun hp => ⟨_, exec_addI_wraps hp, ?_, sameExcept_setI s _⟩⟩
  have hi := s.i.isLt
  have hv := (s.getV x).isLt
  rw [State.setI_i, add_zextByte_toNat]
  omega

end Sys2Proof.Machine
end

section
/-! PROOFS. The cycle at its ends (40_cycle.md R111, R115, 70_reset_and_hazards.md R299), the entry into the key wait
(44_index_timer_memory.md R193), the tick (60_exceptions.md R259) and the values at reset (10_state.md R39, R40). -/

namespace Sys2Proof.Machine

/-! ### Faults of the fetch, and the faulted machine (R111, R115, R252) -/

/-- Settles O7: the step enters the fetch fault. -/
theorem fetchPastMemoryFaults : Obligations.FetchPastMemoryFaults :=
  fun _ hrun hpc => ⟨_, step_fetch_fault hrun hpc, rfl⟩

section FaultedPorts

variable {s : State} {k : Nat}

theorem setKey_faulted (hk : k ≤ 15) (b : Bool) (h : s.isFaulted = true) : setKey k b s = .next s := by
  rw [setKey, if_neg (by omega), if_pos h]

theorem keyPress_faulted (hk : k ≤ 15) (h : s.isFaulted = true) : keyPress k s = .next s := by
  rw [keyPress, if_neg (by omega), if_pos h]

end FaultedPorts

/-- Settles O10: the step and each port test for a fault first, and then leave the state. -/
theorem faultedMachineStaysAsItIs : Obligations.FaultedMachineStaysAsItIs := by
  intro s f hf
  have h := isFaulted_eq_true hf
  exact ⟨step_faulted hf, tick_faulted h, fun k hk => ⟨fun b => setKey_faulted hk b h, keyPress_faulted hk h⟩⟩

/-! ### The idle machine (R299) -/

/-- Settles O60: the word fetched is read back as the jump, and the jump goes to where `pc` was. -/
theorem idleIsAFixedPoint : Obligations.IdleIsAFixedPoint := by
  rintro s l ⟨hrun, hpc, hl, hword⟩
  have hdecode : decode s.params.zeroMatch (fetchWord s) = .ok (.jp l) := by
    rw [hword]
    exact decode_encode rfl
  have hfetch : s.pc.toNat ≤ 0xFFE := by rwa [hpc, zextAddr_toNat]
  have hback : s.advancePc.setPc (zextAddr l) = s := by rw [← hpc]; rfl
  rw [step_instr hrun hfetch hdecode, exec_jp, hback]

/-! ### The key wait (R193) and the tick (R259) -/

theorem exec_ldVxK (s : State) (x : RegIx) :
    exec (.ldVxK x) s = .next ((s.setMode (.waitingForKey x)).emit (.keyWaitEntered x)) := rfl

/-- Settles O38: one update of the run state and one event, neither of which reads a key. -/
theorem keyWaitIsEntered : Obligations.KeyWaitIsEntered :=
  fun s x => ⟨_, exec_ldVxK s x, rfl, rfl, rfl, sameExcept_enterWait s _ _⟩

theorem sameExcept_timers (s : State) (d b : Byte) : SameExcept [.dt, .st] s { s with dt := d, st := b } := by
  intro p hp; cases p <;> simp_all [Same, State.getV, State.key, State.pixel]

/-- Settles O48: outside a fault the tick is one `countDown` of each timer. -/
theorem tickCountsDown : Obligations.TickCountsDown := by
  intro s h
  rw [tick_running (isFaulted_eq_false h)]
  exact ⟨countDown_toNat s.dt, countDown_toNat s.st, sameExcept_timers s _ _⟩

/-! ### The reset values (10_state.md R39, R40) -/

/-- Past the 80 bytes of the font an address that memory does not list reads as 0. -/
theorem unlistedByte_past_font {a : Nat} (h : 80 ≤ a) : unlistedByte a = 0#8 :=
  List.getD_eq_default _ _ h

/-- Settles O58: reset fills its vectors with zeros, and lists no memory, so that the font and then zeros are read. -/
theorem resetValues : Obligations.ResetValues :=
  ⟨fun j => Vector.getElem_replicate j.isLt, rfl, rfl, fun _ h => Vector.getElem_replicate h, rfl, rfl, rfl,
    blankDisplay_pixel, fun k => Vector.getElem_replicate k.isLt, rfl, fun _ h => unlistedByte_past_font h, rfl, rfl⟩

end Sys2Proof.Machine
end
